-- ==== Sys2Proof/Word.lean ====
section
/-! DEFINITION. The 32-bit word every register holds (00_scope R14, R15) and the channel index (R8). -/

namespace Sys2Proof

/-- A register value: 32 bits, bit 0 least significant (R14, R15). -/
abbrev Word := BitVec 32

/-- A channel index 0..7 (R8: NUM_CHANNELS = 8). -/
abbrev Channel := Fin 8

/-- The eight channels in index order (R8, R241). -/
abbrev allChannels : List Channel := [0, 1, 2, 3, 4, 5, 6, 7]

end Sys2Proof
end

