-- ==== Sys2Proof/Syntax.lean ====
section
/-! DEFINITION. The 22 commands of the opcode map (30_encoding R90), with the fields of their command word.
The operand words ARG0 and ARG1 are registers, latched with the word (R80, R89), and no part of the syntax. -/

namespace Sys2Proof

/-- Alignment, with the CALG code (10_state R29): 0 Left, 1 Center. -/
inductive Alignment
  | left
  | center
  deriving DecidableEq, Repr

/-- Polarity, with the CPOL code (10_state R29): 0 Normal, 1 Inverted. -/
inductive Polarity
  | normal
  | inverted
  deriving DecidableEq, Repr

/-- One command (R90). `ck` is the two-bit clock identifier, 2 and 3 being unrecognized (R93); `chm` the channel
mask (R83); `regw` the register word offset (R88). -/
inductive Instr
  /-- INITP (44_lifecycle R240). -/
  | initp
  /-- INITC (42_channel R164). -/
  | initc (ch : Channel) (align : Alignment) (pol : Polarity) (useClk : Bool) (ck : BitVec 2)
  /-- ENABLE (42_channel R151). -/
  | enable (chm : BitVec 8)
  /-- DISABLE (42_channel R153). -/
  | disable (chm : BitVec 8)
  /-- ISEN (42_channel R154). -/
  | isen (ch : Channel)
  /-- SETPOL (42_channel R156). -/
  | setpol (ch : Channel)
  /-- SETALG (42_channel R155). -/
  | setalg (ch : Channel)
  /-- SETPRE (42_channel R157). -/
  | setpre (ch : Channel)
  /-- SETPER (42_channel R159). -/
  | setper (ch : Channel)
  /-- SETDTY (42_channel R161). -/
  | setdty (ch : Channel)
  /-- SETFREQ (43_resolver R205). -/
  | setfreq (ch : Channel)
  /-- SETCLKF (43_resolver R207). -/
  | setclkf (ch : Channel) (ck : BitVec 2)
  /-- SETCLK (41_clock R132). -/
  | setclk (ck : BitVec 2)
  /-- CLKOFF (41_clock R133). -/
  | clkoff (ck : BitVec 2)
  /-- RESETC (42_channel R163). -/
  | resetc (ch : Channel)
  /-- RESETP (44_lifecycle R241). -/
  | resetp
  /-- GETPER (42_channel R165). -/
  | getper (ch : Channel)
  /-- GETALG (42_channel R166). -/
  | getalg (ch : Channel)
  /-- GETPRE (42_channel R167). -/
  | getpre (ch : Channel)
  /-- GETDTY (42_channel R168). -/
  | getdty (ch : Channel)
  /-- SETF (40_bitfield R113). -/
  | setf (regw : BitVec 10)
  /-- GETF (40_bitfield R114). -/
  | getf (regw : BitVec 10)
  deriving DecidableEq, Repr

end Sys2Proof
end

