-- ==== Sys2Proof/WellFormed.lean ====
section
/-! DEFINITION. Which commands have a command word (30_encoding R87: FMT_I's side condition is the only one). -/

namespace Sys2Proof

/-- R87: INITC with USECLK = 0 requires CK = 0. Every other field value of every format has a word. -/
def Instr.wellFormed : Instr → Bool
  | .initc _ _ _ useClk ck => useClk || ck == 0
  | .initp | .resetp => true
  | .enable _ | .disable _ => true
  | .isen _ | .setpol _ | .setalg _ | .setpre _ | .setper _ | .setdty _ | .setfreq _ => true
  | .resetc _ | .getper _ | .getalg _ | .getpre _ | .getdty _ => true
  | .setclkf _ _ | .setclk _ | .clkoff _ => true
  | .setf _ | .getf _ => true

end Sys2Proof
end

