-- ==== Sys2Proof/Decode.lean ====
section
/-! DEFINITION. The decoder of 30_encoding R91, total on every 32-bit word, and the encoder of the same tables
(R81 to R88, R90). -/

namespace Sys2Proof

/-- CALG code (10_state R29, 30_encoding R94). -/
def Alignment.code : Alignment → BitVec 1
  | .left => 0
  | .center => 1

/-- The alignment a CALG code names (R29). -/
def alignmentOf (b : BitVec 1) : Alignment :=
  if b = 1 then .center else .left

/-- CPOL code (10_state R29, 30_encoding R94). -/
def Polarity.code : Polarity → BitVec 1
  | .normal => 0
  | .inverted => 1

/-- The polarity a CPOL code names (R29). -/
def polarityOf (b : BitVec 1) : Polarity :=
  if b = 1 then .inverted else .normal

/-- Why a command word is illegal (R91, R92). -/
inductive DecodeError
  /-- The opcode is `0x00` or one of `0x17..0x3F` (R92). -/
  | unassignedOpcode
  /-- A reserved bit of a listed opcode is 1 (R91). -/
  | reservedBitSet
  /-- INITC with USECLK = 0 and CK other than 0 (R87, R91). -/
  | clockWithoutUse
  deriving DecidableEq, Repr

/-- OP, bits 31..26 (R81). -/
def opOf (w : Word) : BitVec 6 := w.extractLsb' 26 6

/-- CH, bits 2..0 (R81). -/
def chOf (w : Word) : Channel := (w.extractLsb' 0 3).toFin

/-- CHM, bits 7..0 (R81). -/
def chmOf (w : Word) : BitVec 8 := w.extractLsb' 0 8

/-- REGW, bits 9..0 (R81). -/
def regwOf (w : Word) : BitVec 10 := w.extractLsb' 0 10

/-- CK of FMT_CK and FMT_I, bits 25..24 (R81). -/
def ckHighOf (w : Word) : BitVec 2 := w.extractLsb' 24 2

/-- CK of FMT_K, bits 1..0 (R85). -/
def ckLowOf (w : Word) : BitVec 2 := w.extractLsb' 0 2

/-- USECLK, bit 23 (R81). -/
def useClkOf (w : Word) : Bool := w.extractLsb' 23 1 == 1

/-- ALIGN, bit 22 (R81). -/
def alignOf (w : Word) : Alignment := alignmentOf (w.extractLsb' 22 1)

/-- POL, bit 21 (R81). -/
def polOf (w : Word) : Polarity := polarityOf (w.extractLsb' 21 1)

/-- The command of a word whose reserved bits are all 0: those are the bits of the row's mask (R90, R91). -/
def ifMatches (w mask pat : Word) (i : Instr) : Except DecodeError Instr :=
  if w &&& mask = pat then .ok i else .error .reservedBitSet

/-- FMT_I's side condition, checked after the match (R90, R91). -/
def checkClockUse : Except DecodeError Instr → Except DecodeError Instr
  | .ok i => if i.wellFormed then .ok i else .error .clockWithoutUse
  | .error e => .error e

/-- The mask and match columns of the opcode map (R90), in its order. -/
def opcodeRows : List (Word × Word) :=
  [(0xFFFFFFFF, 0x04000000), (0xFC1FFFF8, 0x08000000), (0xFFFFFF00, 0x0C000000), (0xFFFFFF00, 0x10000000),
   (0xFFFFFFF8, 0x14000000), (0xFFFFFFF8, 0x18000000), (0xFFFFFFF8, 0x1C000000), (0xFFFFFFF8, 0x20000000)] ++
  [(0xFFFFFFF8, 0x24000000), (0xFFFFFFF8, 0x28000000), (0xFFFFFFF8, 0x2C000000), (0xFCFFFFF8, 0x30000000),
   (0xFFFFFFFC, 0x34000000), (0xFFFFFFFC, 0x38000000), (0xFFFFFFF8, 0x3C000000), (0xFFFFFFFF, 0x40000000)] ++
  [(0xFFFFFFF8, 0x44000000), (0xFFFFFFF8, 0x48000000), (0xFFFFFFF8, 0x4C000000), (0xFFFFFFF8, 0x50000000),
   (0xFFFFFC00, 0x54000000), (0xFFFFFC00, 0x58000000)]

/-- The command of a word (R90, R91). -/
def decode (w : Word) : Except DecodeError Instr :=
  match (opOf w).toNat with
  | 0x01 => ifMatches w 0xFFFFFFFF 0x04000000 .initp
  | 0x02 => checkClockUse (ifMatches w 0xFC1FFFF8 0x08000000
      (.initc (chOf w) (alignOf w) (polOf w) (useClkOf w) (ckHighOf w)))
  | 0x03 => ifMatches w 0xFFFFFF00 0x0C000000 (.enable (chmOf w))
  | 0x04 => ifMatches w 0xFFFFFF00 0x10000000 (.disable (chmOf w))
  | 0x05 => ifMatches w 0xFFFFFFF8 0x14000000 (.isen (chOf w))
  | 0x06 => ifMatches w 0xFFFFFFF8 0x18000000 (.setpol (chOf w))
  | 0x07 => ifMatches w 0xFFFFFFF8 0x1C000000 (.setalg (chOf w))
  | 0x08 => ifMatches w 0xFFFFFFF8 0x20000000 (.setpre (chOf w))
  | 0x09 => ifMatches w 0xFFFFFFF8 0x24000000 (.setper (chOf w))
  | 0x0A => ifMatches w 0xFFFFFFF8 0x28000000 (.setdty (chOf w))
  | 0x0B => ifMatches w 0xFFFFFFF8 0x2C000000 (.setfreq (chOf w))
  | 0x0C => ifMatches w 0xFCFFFFF8 0x30000000 (.setclkf (chOf w) (ckHighOf w))
  | 0x0D => ifMatches w 0xFFFFFFFC 0x34000000 (.setclk (ckLowOf w))
  | 0x0E => ifMatches w 0xFFFFFFFC 0x38000000 (.clkoff (ckLowOf w))
  | 0x0F => ifMatches w 0xFFFFFFF8 0x3C000000 (.resetc (chOf w))
  | 0x10 => ifMatches w 0xFFFFFFFF 0x40000000 .resetp
  | 0x11 => ifMatches w 0xFFFFFFF8 0x44000000 (.getper (chOf w))
  | 0x12 => ifMatches w 0xFFFFFFF8 0x48000000 (.getalg (chOf w))
  | 0x13 => ifMatches w 0xFFFFFFF8 0x4C000000 (.getpre (chOf w))
  | 0x14 => ifMatches w 0xFFFFFFF8 0x50000000 (.getdty (chOf w))
  | 0x15 => ifMatches w 0xFFFFFC00 0x54000000 (.setf (regwOf w))
  | 0x16 => ifMatches w 0xFFFFFC00 0x58000000 (.getf (regwOf w))
  | _ => .error .unassignedOpcode

/-- The decoder on a table word: the hardware stores a command as one 32-bit word (R80, R95), so bit n of the
table's numbering is bit n of the word. -/
def decodeTableWord (nbits w : Nat) : Option Instr :=
  if w % 2 ^ nbits < 2 ^ 32 then (decode (BitVec.ofNat 32 (w % 2 ^ nbits))).toOption else none

/-- The 3-bit CH field of a channel. -/
def chBits (ch : Channel) : BitVec 3 := BitVec.ofFin ch

/-- USECLK's bit. -/
def useClkBit (b : Bool) : BitVec 1 := BitVec.ofBool b

/-- FMT_N (R82). -/
def fmtN (op : BitVec 6) : Word := op ++ 0#26

/-- FMT_M (R83). -/
def fmtM (op : BitVec 6) (chm : BitVec 8) : Word := op ++ 0#18 ++ chm

/-- FMT_C (R84). -/
def fmtC (op : BitVec 6) (ch : Channel) : Word := op ++ 0#23 ++ chBits ch

/-- FMT_K (R85). -/
def fmtK (op : BitVec 6) (ck : BitVec 2) : Word := op ++ 0#24 ++ ck

/-- FMT_CK (R86). -/
def fmtCK (op : BitVec 6) (ck : BitVec 2) (ch : Channel) : Word := op ++ ck ++ 0#21 ++ chBits ch

/-- FMT_I (R87). -/
def fmtI (op : BitVec 6) (ck : BitVec 2) (useClk : Bool) (align : Alignment) (pol : Polarity) (ch : Channel) : Word :=
  op ++ ck ++ useClkBit useClk ++ align.code ++ pol.code ++ 0#18 ++ chBits ch

/-- FMT_R (R88). -/
def fmtR (op : BitVec 6) (regw : BitVec 10) : Word := op ++ 0#16 ++ regw

/-- The word of a command (R80 to R90). -/
def encode : Instr → Word
  | .initp => fmtN 0x01
  | .initc ch align pol useClk ck => fmtI 0x02 ck useClk align pol ch
  | .enable chm => fmtM 0x03 chm
  | .disable chm => fmtM 0x04 chm
  | .isen ch => fmtC 0x05 ch
  | .setpol ch => fmtC 0x06 ch
  | .setalg ch => fmtC 0x07 ch
  | .setpre ch => fmtC 0x08 ch
  | .setper ch => fmtC 0x09 ch
  | .setdty ch => fmtC 0x0A ch
  | .setfreq ch => fmtC 0x0B ch
  | .setclkf ch ck => fmtCK 0x0C ck ch
  | .setclk ck => fmtK 0x0D ck
  | .clkoff ck => fmtK 0x0E ck
  | .resetc ch => fmtC 0x0F ch
  | .resetp => fmtN 0x10
  | .getper ch => fmtC 0x11 ch
  | .getalg ch => fmtC 0x12 ch
  | .getpre ch => fmtC 0x13 ch
  | .getdty ch => fmtC 0x14 ch
  | .setf regw => fmtR 0x15 regw
  | .getf regw => fmtR 0x16 regw

end Sys2Proof
end

