-- ==== Sys2Proof/Config.lean ====
section
/-! DEFINITION. What an implementation fixes (00_scope section 4) and the free values (00_scope R16, `draw()`). -/

namespace Sys2Proof

/-- SHIFT_RULE (R12): how the accessor derives a field's shift from its mask. -/
inductive ShiftRule
  | lowest
  | topmost
  deriving DecidableEq, Repr

/-- What a rule makes of a mask whose lowest set bit is `lo` and topmost set bit `hi` (40_bitfield R110). -/
def ShiftRule.pick (rule : ShiftRule) (lo hi : Nat) : Nat :=
  match rule with
  | .lowest => lo
  | .topmost => hi

/-- The implementation parameters (R7, R12, R13). A state carries them unchanged, so that a claim about every
state is a claim for every parameter (log entry 4). -/
structure Params where
  /-- SYSTEM_CLOCK_FREQUENCY, written F (R7), at most `2^32 - 1` as a word. -/
  sysClock : Word
  /-- R7: `1 <= F`. -/
  sysClock_pos : 1 ≤ sysClock.toNat
  /-- SHIFT_RULE (R12). -/
  shiftRule : ShiftRule
  /-- PWM_BASE (R13). No rule depends on it. -/
  pwmBase : Word
  /-- CTRL_BASE (R13). No rule depends on it. -/
  ctrlBase : Word
  deriving DecidableEq, Repr

namespace Config

/-- F as a natural number (R7, R208). -/
abbrev freq (p : Params) : Nat := p.sysClock.toNat

/-- The ladder has indices 0..10 (R9). -/
abbrev ladderSize : Nat := 11

/-- `ladder(i) = 2^i` (R9). -/
abbrev ladder (i : Nat) : Nat := 2 ^ i

/-- PERIOD_MAX (R10). -/
abbrev periodMax : Nat := 65535

/-- DIVISOR_MAX (R11). -/
abbrev divisorMax : Nat := 255

/-- `draw()` (R16): the n-th 32-bit value the model does not choose. It has no body: nothing can be proved of a
value of it (log entry 5). -/
opaque draw : Nat → Word

/-- The parameters of the reset state: SHIFT_RULE and PWM_BASE at the spec's defaults (R12, R13).
DESIGN CHOICE: F at the value of the document's only scenario (R7), CTRL_BASE (OPEN in R13) at a fixed address
(log entry 4). -/
abbrev defaultParams : Params :=
  { sysClock := 84000000, sysClock_pos := by decide, shiftRule := .lowest, pwmBase := 0x40094000, ctrlBase := 0x40098000 }

end Config

end Sys2Proof
end

