-- ==== Sys2Proof/Machine/State.lean ====
section
/-! DEFINITION. The state of the hardware (10_state R20 to R50), its faults (60_exceptions R303 to R305) and the
state after reset (10_state R49). -/

namespace Sys2Proof.Machine

/-- The direct registers a write may corrupt (10_state R40, 60_exceptions R304). -/
inductive DirectReg
  | cprd
  | cdty
  | dt
  deriving DecidableEq, Repr

/-- Breaches of the host protocol (60_exceptions R305). -/
inductive HostBreach
  /-- A host access that is not a 32-bit access at one of the five offsets (20_memory R62). -/
  | badAccess
  /-- A host write to CMD, ARG0 or ARG1 while BUSY = 1. -/
  | writeWhileBusy
  deriving DecidableEq, Repr

/-- FaultInfo (60_exceptions R303): exactly the constructors of R304 and R305. The same type is the fault mark of
the state and the answer of a step of a marked state. -/
inductive Fault
  /-- Raised by a sequencer write to CPRDc, CDTYc or DTc while `en[c] = 1`, which only SETF reaches (R40, R304).
  Safe: the spec itself faults here, and the write is not performed. -/
  | directWriteWhileEnabled (c : Channel) (r : DirectReg)
  /-- Raised by a host access outside the protocol (R305). Safe: the spec itself faults here, and the access is not
  performed. -/
  | hostProtocol (kind : HostBreach)
  deriving DecidableEq, Repr

/-- The reasons to refuse. No meaning of this model refuses. -/
inductive Refusal
  /-- An arm of `exec` that has no meaning yet. Safe: nothing can be proved of a run that stops here. -/
  | notModelled (mnemonic : String)
  deriving DecidableEq, Repr

/-- The error codes (60_exceptions R300). Codes 8 to 15 are never written. -/
inductive ErrCode
  | ok
  | freq
  | clockId
  | exhausted
  | zeroPeriod
  | zeroMask
  | illegal
  | badRegister
  deriving DecidableEq, Repr

/-- The registers of the PWM register block (10_state R22). -/
inductive Reg
  | clk
  | ena
  | dis
  | sr
  | cmr (c : Channel)
  | cdty (c : Channel)
  | cdtyupd (c : Channel)
  | cprd (c : Channel)
  | cprdupd (c : Channel)
  | dt (c : Channel)
  | dtupd (c : Channel)
  deriving DecidableEq, Repr

/-- One channel: its registers (10_state R27 to R34) and its hidden bits (R37 to R39). -/
structure Chan where
  cmr : Word
  cdty : Word
  cdtyupd : Word
  cprd : Word
  cprdupd : Word
  dt : Word
  dtupd : Word
  /-- `en[c]` (R37), which SR reports. -/
  en : Bool
  /-- `disreq[c]` (R38). -/
  disreq : Bool
  /-- `pend_prd[c]` (R39). -/
  pendPrd : Bool
  /-- `pend_dty[c]` (R39). -/
  pendDty : Bool
  /-- `pend_dt[c]` (R39). -/
  pendDt : Bool
  deriving DecidableEq, Repr

/-- What the sequencer holds while Running (10_state R43): the words latched at the CMD write, and `replies`, the
values its completed accesses have given, oldest first. The position in the command's pseudocode is the access that
follows them, and the command's local values are computed from them (log entry 1). -/
structure Latch where
  cmd : Word
  arg0 : Word
  arg1 : Word
  replies : List Word
  deriving DecidableEq, Repr

/-- `phase` (10_state R43). STATUS.BUSY is 1 exactly when it is running (R43): stored once, here. -/
inductive Phase
  | idle
  | running (l : Latch)
  deriving DecidableEq, Repr

/-- One host access (60_exceptions R313): an address, a width in bytes, and the word of a write. -/
inductive HostAccess
  | read (addr : Word) (width : Nat)
  | write (addr : Word) (width : Nat) (v : Word)
  deriving DecidableEq, Repr

/-- Which agent makes the next atomic step (00_scope R6, 20_memory R63), and the access, if it is the host
(log entry 2). -/
inductive Move
  | host (a : HostAccess)
  | sequencer
  | boundary (c : Channel)
  /-- The host polls STATUS until BUSY = 0 (30_encoding R97 `@WAIT`, 70 R403): the sequencer steps while it is busy. -/
  | await
  deriving DecidableEq, Repr

/-- The whole state (10_state R20). The last four fields are not the spec's state: the parameters, and the model's own
`script`, `draws` and `readback`. -/
structure State where
  /-- CLK (R23). -/
  clk : Word
  /-- The channels' registers and hidden bits (R22, R37 to R39). -/
  chans : Vector Chan 8
  /-- CMD, the last command word written (R41). -/
  cmd : Word
  /-- ARG0 (R41). -/
  arg0 : Word
  /-- ARG1 (R41). -/
  arg1 : Word
  /-- RESULT (R41). -/
  result : Word
  /-- STATUS.ERR (R42). -/
  err : ErrCode
  /-- The sequencer's phase (R43) and with it STATUS.BUSY. -/
  phase : Phase
  /-- The fault mark (60_exceptions R303). -/
  fault : Option Fault
  /-- The parameters (00_scope R7, R12, R13), which no step changes (log entry 4). -/
  params : Params
  /-- DESIGN CHOICE: who moves next, oldest first (log entry 2). -/
  script : List Move
  /-- DESIGN CHOICE: how many free values have been drawn (log entry 5). -/
  draws : Nat
  /-- DESIGN CHOICE: the word the last host read returned, none before the first (log entry 7). -/
  readback : Option Word
  deriving DecidableEq, Repr

/-- A channel after reset: every register and hidden bit 0 (10_state R49). -/
abbrev Chan.reset : Chan :=
  { cmr := 0, cdty := 0, cdtyupd := 0, cprd := 0, cprdupd := 0, dt := 0, dtupd := 0,
    en := false, disreq := false, pendPrd := false, pendDty := false, pendDt := false }

/-- The power-on reset state (10_state R49, 70_reset_and_hazards R400). The parameters and the model's own fields are
at the values of log entries 2, 4, 5 and 7. -/
def State.reset : State :=
  { clk := 0, chans := Vector.replicate 8 Chan.reset, cmd := 0, arg0 := 0, arg1 := 0, result := 0, err := .ok,
    phase := .idle, fault := none, params := Config.defaultParams, script := [], draws := 0, readback := none }

end Sys2Proof.Machine
end

