-- ==== Sys2Proof/Machine/Flags.lean ====
section
/-! DEFINITION. The status words: SR (10_state R26), STATUS (R42) and the error codes (60_exceptions R300). -/

namespace Sys2Proof.Machine

/-- The one-bit word `1 << c` of a channel (42_channel R162). -/
def channelBit (c : Channel) : Word := 1#32 <<< c.val

/-- Bit `c` of a word (00_scope R15). -/
def chBit (w : Word) (c : Channel) : Bool := w.getLsbD c.val

/-- The word whose bit `c` is `f c` for `c` in 0..7 and whose other bits are 0. -/
def flagWord (f : Channel → Bool) : Word :=
  (allChannels.map fun c => if f c then channelBit c else 0).foldr (· ||| ·) 0

/-- Channel `c`. -/
def State.chan (s : State) (c : Channel) : Chan := s.chans[c]

/-- SR (R26): bit `c` is `en[c]`, bits 31..8 read 0. -/
def State.srWord (s : State) : Word := flagWord fun c => (s.chan c).en

/-- The number of an error code (60_exceptions R300). -/
def ErrCode.code : ErrCode → BitVec 4
  | .ok => 0
  | .freq => 1
  | .clockId => 2
  | .exhausted => 3
  | .zeroPeriod => 4
  | .zeroMask => 5
  | .illegal => 6
  | .badRegister => 7

/-- STATUS.BUSY (R42): phase is Running exactly when it is 1 (R43). -/
def State.busy (s : State) : Bool :=
  match s.phase with
  | .idle => false
  | .running _ => true

/-- STATUS (R42): BUSY in bit 31, ERR in bits 3..0, bits 30..4 read 0. -/
def State.statusWord (s : State) : Word := BitVec.ofBool s.busy ++ 0#27 ++ s.err.code

end Sys2Proof.Machine
end

