-- ==== Sys2Proof/Machine/Operands.lean ====
section
/-! DEFINITION. Operand forms: the register map (10_state R22), the field masks (R48), shift derivation and the two
bitfield formulas (40_bitfield R110 to R112), the operand words (30_encoding R89) and the clock identifier (R93). -/

namespace Sys2Proof.Machine

/-- The register at one word slot of channel `c`'s block (10_state R22); the slot `+0x14` names none (R35). -/
def channelSlot (c : Channel) : Nat → Option Reg
  | 0x00 => some (.cmr c)
  | 0x04 => some (.cdty c)
  | 0x08 => some (.cdtyupd c)
  | 0x0C => some (.cprd c)
  | 0x10 => some (.cprdupd c)
  | 0x18 => some (.dt c)
  | 0x1C => some (.dtupd c)
  | _ => none

/-- The register at an offset of the register block (10_state R22, R35). -/
def regAt (off : Nat) : Option Reg :=
  match off with
  | 0x000 => some .clk
  | 0x004 => some .ena
  | 0x008 => some .dis
  | 0x00C => some .sr
  | _ =>
    if 0x200 ≤ off ∧ off < 0x300 then
      channelSlot (Fin.ofNat 8 ((off - 0x200) / 0x20)) ((off - 0x200) % 0x20)
    else none

/-- The offset of channel `c`'s block (10_state R22: stride 8 words). -/
def channelBase (c : Channel) : Nat := 0x200 + 0x20 * c.val

/-- The offset of a register (10_state R22). -/
def Reg.offset : Reg → Nat
  | .clk => 0x000
  | .ena => 0x004
  | .dis => 0x008
  | .sr => 0x00C
  | .cmr c => channelBase c + 0x00
  | .cdty c => channelBase c + 0x04
  | .cdtyupd c => channelBase c + 0x08
  | .cprd c => channelBase c + 0x0C
  | .cprdupd c => channelBase c + 0x10
  | .dt c => channelBase c + 0x18
  | .dtupd c => channelBase c + 0x1C

/-- The register FMT_R names: offset `4 * REGW` (30_encoding R88). -/
def regOfWord (regw : BitVec 10) : Option Reg := regAt (4 * regw.toNat)

/-- DIVA_MASK (R48). -/
abbrev divaMask : Word := 0x000000FF
/-- PREA_MASK (R48). -/
abbrev preaMask : Word := 0x00000F00
/-- DIVB_MASK (R48). -/
abbrev divbMask : Word := 0x00FF0000
/-- PREB_MASK (R48). -/
abbrev prebMask : Word := 0x0F000000
/-- CPRE_MASK (R48). -/
abbrev cpreMask : Word := 0x0000000F
/-- CALG_MASK (R48). -/
abbrev calgMask : Word := 0x00000100
/-- CPOL_MASK (R48). -/
abbrev cpolMask : Word := 0x00000200
/-- CPRD_MASK (R48). -/
abbrev cprdMask : Word := 0x0000FFFF
/-- CDTY_MASK (R48). -/
abbrev cdtyMask : Word := 0x0000FFFF
/-- FULL_MASK (R48). -/
abbrev fullMask : Word := 0xFFFFFFFF

/-- `shift_Lowest(m)` (R110). Of the mask 0, for which R110 defines no shift, no command asks it (log entry 9). -/
def shiftLowest (m : Word) : Nat := ((List.range 32).find? fun n => m.getLsbD n).getD 0

/-- `shift_Topmost(m)` (R110). -/
def shiftTopmost (m : Word) : Nat := ((List.range 32).reverse.find? fun n => m.getLsbD n).getD 0

/-- `shift(m)` under SHIFT_RULE (R110). -/
def shiftOf (rule : ShiftRule) (m : Word) : Nat := rule.pick (shiftLowest m) (shiftTopmost m)

/-- The word set_field writes (R111): the field cleared, the shifted value ORed in unmasked (R117). -/
def insertField (rule : ShiftRule) (old m v : Word) : Word := (old &&& ~~~m) ||| (v <<< shiftOf rule m)

/-- The value get_field returns (R112). -/
def extractField (rule : ShiftRule) (x m : Word) : Word := (x &&& m) >>> shiftOf rule m

/-- ARG0[0] of SETPOL and SETALG (R89). -/
def argBit (a : Word) : Word := (a.extractLsb' 0 1).zeroExtend 32

/-- ARG0[3:0] of SETPRE (R89). -/
def argSelector (a : Word) : Word := (a.extractLsb' 0 4).zeroExtend 32

/-- The 16-bit period or duty cycle of an operand word (R89). -/
def argHalf (a : Word) : Word := (a.extractLsb' 0 16).zeroExtend 32

/-- The divisor ARG0[7:0] of SETCLK, and divA of INITP (R89). -/
def argDivA (a : Word) : Word := (a.extractLsb' 0 8).zeroExtend 32

/-- The ladder index ARG0[11:8] of SETCLK, and preA of INITP (R89). -/
def argPreA (a : Word) : Word := (a.extractLsb' 8 4).zeroExtend 32

/-- divB, ARG0[23:16] of INITP (R89). -/
def argDivB (a : Word) : Word := (a.extractLsb' 16 8).zeroExtend 32

/-- preB, ARG0[27:24] of INITP (R89). -/
def argPreB (a : Word) : Word := (a.extractLsb' 24 4).zeroExtend 32

/-- The word of an alignment's CALG code (R94). -/
def alignWord : Alignment → Word
  | .left => 0
  | .center => 1

/-- The word of a polarity's CPOL code (R94). -/
def polWord : Polarity → Word
  | .normal => 0
  | .inverted => 1

/-- `zext_32` of a channel mask (42_channel R150, R152). -/
def maskWord (chm : BitVec 8) : Word := chm.zeroExtend 32

/-- The two shared clocks (30_encoding R93). -/
inductive SharedClock
  | a
  | b
  deriving DecidableEq, Repr

/-- The clock a clock identifier names; 2 and 3 are unrecognized (R93). -/
def sharedClock (ck : BitVec 2) : Option SharedClock :=
  match ck.toNat with
  | 0 => some .a
  | 1 => some .b
  | _ => none

/-- The prescaler mask of a clock (41_clock R130). -/
def SharedClock.preMask : SharedClock → Word
  | .a => preaMask
  | .b => prebMask

/-- The divisor mask of a clock (41_clock R130, R131). -/
def SharedClock.divMask : SharedClock → Word
  | .a => divaMask
  | .b => divbMask

/-- The selector code that names a clock, `11 + ck` (10_state R28, 43_resolver R206). -/
def SharedClock.selector : SharedClock → Word
  | .a => 11
  | .b => 12

end Sys2Proof.Machine
end

