-- ==== Sys2Proof/Machine/Ops.lean ====
section
/-! DEFINITION. The named operations over the state: channel update, draws, raising a fault, finishing a command,
one register read and one register write (10_state R24 to R40, 20_memory R64), and the controller sequencer's one
atomic access of a command's pseudocode (10_state R43, 20_memory R63). -/

namespace Sys2Proof.Machine

/-- Replace CLK (10_state R23: the whole word is stored). -/
def State.setClk (s : State) (v : Word) : State := { s with clk := v }

/-- Replace channel `c`. -/
def State.setChan (s : State) (c : Channel) (ch : Chan) : State := { s with chans := s.chans.set c ch }

/-- Change every channel by its index. -/
def State.mapChans (s : State) (f : Channel → Chan → Chan) : State :=
  { s with chans := Vector.ofFn fun c => f c (s.chan c) }

/-- The free value the next draw gives (00_scope R16, log entry 5). -/
def State.drawn (s : State) : Word := Config.draw s.draws

/-- A draw is used up. -/
def State.tick (s : State) : State := { s with draws := s.draws + 1 }

/-- `raise Fault(info)` (60_exceptions R303): the mark is set if there is none, and never changed after. -/
def State.raise (s : State) (f : Fault) : State :=
  { s with
    fault := match s.fault with
      | none => some f
      | some g => some g }

/-- `finish(code, result)` (00_scope R16, 60_exceptions R301): one atomic step that sets ERR and RESULT and ends the
command (BUSY 0, phase Idle). -/
def State.finish (s : State) (code : ErrCode) (result : Word) : State :=
  { s with err := code, result := result, phase := .idle }

/-- The sequencer goes on to its next access with the value this one gave (10_state R43). -/
def State.reply (s : State) (v : Word) : State :=
  { s with
    phase := match s.phase with
      | .idle => .idle
      | .running l => .running { l with replies := l.replies ++ [v] } }

/-- The value `RegRead` of a register gives (10_state R24 to R34, R36): the stored word, SR's view, or a draw. -/
def State.regValue (s : State) : Reg → Word
  | .clk => s.clk
  | .ena => s.drawn
  | .dis => s.drawn
  | .sr => s.srWord
  | .cmr c => (s.chan c).cmr
  | .cdty c => (s.chan c).cdty
  | .cdtyupd c => (s.chan c).cdtyupd
  | .cprd c => (s.chan c).cprd
  | .cprdupd c => (s.chan c).cprdupd
  | .dt c => (s.chan c).dt
  | .dtupd c => (s.chan c).dtupd

/-- A register read has no side effect (20_memory R64); a read of ENA or DIS uses up a draw (log entry 5). -/
def State.afterRead (s : State) : Reg → State
  | .ena => s.tick
  | .dis => s.tick
  | .clk => s
  | .sr => s
  | .cmr _ => s
  | .cdty _ => s
  | .cdtyupd _ => s
  | .cprd _ => s
  | .cprdupd _ => s
  | .dt _ => s
  | .dtupd _ => s

/-- A 1 bit written to ENA (R24): enable a disabled channel; with a disable pending, the drawn bit chooses between
cancelling the request and leaving it. -/
def Chan.enableAct (act cancel : Bool) (ch : Chan) : Chan :=
  if act then
    if ch.en then
      if ch.disreq && cancel then { ch with disreq := false } else ch
    else { ch with en := true }
  else ch

/-- A 1 bit written to DIS (R25): request the disable of an enabled channel. -/
def Chan.disableAct (act : Bool) (ch : Chan) : Chan :=
  if act && ch.en then { ch with disreq := true } else ch

/-- A write to ENA (R24). The write uses up one draw, whose bit `c` is channel `c`'s choice. 20_memory R64 calls an ENA
write idempotent, while R24 has a draw at every write on a pending disable; the model follows R24, so a second write of the
same value draws afresh and may cancel the request that the first one left (DESIGN CHOICE, log entry 6). -/
def State.writeEna (s : State) (v : Word) : State :=
  (s.mapChans fun c ch => ch.enableAct (chBit v c) (chBit s.drawn c)).tick

/-- A write to DIS (R25). -/
def State.writeDis (s : State) (v : Word) : State :=
  s.mapChans fun c ch => ch.disableAct (chBit v c)

/-- A write to CPRDUPDc (R31). -/
def Chan.writePrdShadow (ch : Chan) (v : Word) : Chan :=
  { ch with cprdupd := v, pendPrd := ch.en || ch.pendPrd }

/-- A write to CDTYUPDc (R33). -/
def Chan.writeDtyShadow (ch : Chan) (v : Word) : Chan :=
  { ch with cdtyupd := v, pendDty := ch.en || ch.pendDty }

/-- A write to DTUPDc (R34). -/
def Chan.writeDtShadow (ch : Chan) (v : Word) : Chan :=
  { ch with dtupd := v, pendDt := ch.en || ch.pendDt }

/-- The effect of a `RegWrite` that does not fault (10_state R24 to R36). A write to SR has no effect (R26). -/
def State.storeReg (s : State) (v : Word) : Reg → State
  | .clk => s.setClk v
  | .ena => s.writeEna v
  | .dis => s.writeDis v
  | .sr => s
  | .cmr c => s.setChan c { s.chan c with cmr := v }
  | .cdty c => s.setChan c { s.chan c with cdty := v }
  | .cdtyupd c => s.setChan c ((s.chan c).writeDtyShadow v)
  | .cprd c => s.setChan c { s.chan c with cprd := v }
  | .cprdupd c => s.setChan c ((s.chan c).writePrdShadow v)
  | .dt c => s.setChan c { s.chan c with dt := v }
  | .dtupd c => s.setChan c ((s.chan c).writeDtShadow v)

/-- The fault of a write to a direct register of an enabled channel (R40, 60_exceptions R304). -/
def State.directFault (s : State) : Reg → Option Fault
  | .cprd c => if (s.chan c).en then some (.directWriteWhileEnabled c .cprd) else none
  | .cdty c => if (s.chan c).en then some (.directWriteWhileEnabled c .cdty) else none
  | .dt c => if (s.chan c).en then some (.directWriteWhileEnabled c .dt) else none
  | .clk => none
  | .ena => none
  | .dis => none
  | .sr => none
  | .cmr _ => none
  | .cdtyupd _ => none
  | .cprdupd _ => none
  | .dtupd _ => none

/-- What remains of a command's pseudocode, as the accesses it makes (00_scope R16): a register read whose value the
rest depends on, a register write, the wait `wait_until((RegRead(SR) & m) = 0)` of 42_channel R152, and `finish`. -/
inductive Prog
  | finish (code : ErrCode) (result : Word)
  | read (r : Reg) (k : Word → Prog)
  | write (r : Reg) (v : Word) (k : Prog)
  | waitClear (m : Word) (k : Prog)

/-- What remains after the first access, given the value it gave. -/
def Prog.after : Prog → Word → Prog
  | .finish code result, _ => .finish code result
  | .read _ k, v => k v
  | .write _ _ k, _ => k
  | .waitClear _ k, _ => k

/-- The rest of a command after the accesses that gave `replies` (10_state R43): its position, with the local values
those replies determine. -/
def Prog.resume (p : Prog) (replies : List Word) : Prog := replies.foldl Prog.after p

/-- One `RegRead` (20_memory R63). -/
def State.readStep (s : State) (r : Reg) : State := (s.afterRead r).reply (s.regValue r)

/-- One `RegWrite` (20_memory R63): a direct write to an enabled channel raises its fault instead (R40), and the
sequencer stays where it is. -/
def State.writeStep (s : State) (r : Reg) (v : Word) : State :=
  match s.directFault r with
  | some f => s.raise f
  | none => (s.storeReg v r).reply v

/-- One evaluation of the wait's condition, one `RegRead(SR)` (42_channel R152, 60_exceptions R311): the sequencer
stays at the wait while `SR & m` is not 0. -/
def State.waitStep (s : State) (m : Word) : State :=
  if s.srWord &&& m = 0 then s.reply 0 else s

/-- The first access of what remains of a command, one atomic step (20_memory R63). -/
def Prog.act (p : Prog) (s : State) : State :=
  match p with
  | .finish code result => s.finish code result
  | .read r _ => s.readStep r
  | .write r v _ => s.writeStep r v
  | .waitClear m _ => s.waitStep m

/-- The sequencer's next step of a command whose pseudocode is `prog`, on the operand words it latched: perform the
access at its position (10_state R43, 20_memory R63). An idle sequencer has no step. -/
def State.runCommand (s : State) (prog : Params → Word → Word → Prog) : Host.Outcome State Fault Refusal :=
  match s.phase with
  | .idle => .next s
  | .running l => .next (((prog s.params l.arg0 l.arg1).resume l.replies).act s)

end Sys2Proof.Machine
end

