-- ==== Sys2Proof/Machine/Agents.lean ====
section
/-! DEFINITION. The two other agents: the host's accesses to the command interface (20_memory R62, 60_exceptions R305,
R313), and the channel agents' period boundary with the channel clock that admits it (10_state R44 to R47). -/

namespace Sys2Proof.Machine

/-- The command-interface registers (10_state R41). -/
inductive CtrlReg
  | cmd
  | arg0
  | arg1
  | result
  | status
  deriving DecidableEq, Repr

/-- The register at an offset of the command interface (10_state R41). -/
def ctrlAt (off : Nat) : Option CtrlReg :=
  match off with
  | 0x00 => some .cmd
  | 0x04 => some .arg0
  | 0x08 => some .arg1
  | 0x0C => some .result
  | 0x10 => some .status
  | _ => none

/-- The register a host access of a width in bytes at an address reaches: a 32-bit access at `CTRL_BASE` plus one of
the five offsets, each a multiple of 4 (20_memory R62). 00_scope R13 gives no address width: that an address is 32 bits
and the subtraction is modulo 2^32 is the model's choice (DESIGN CHOICE, log entry 18). -/
def State.ctrlTarget (s : State) (addr : Word) (width : Nat) : Option CtrlReg :=
  if width = 4 then ctrlAt (addr - s.params.ctrlBase).toNat else none

/-- What a host read of a register returns (60_exceptions R313). -/
def State.ctrlValue (s : State) : CtrlReg → Word
  | .cmd => s.cmd
  | .arg0 => s.arg0
  | .arg1 => s.arg1
  | .result => s.result
  | .status => s.statusWord

/-- A write of CMD starts a command: CMD, ARG0 and ARG1 are latched, BUSY and phase become Running, and the sequencer
stands at the command's start (60_exceptions R313, 20_memory R71). -/
def State.startCommand (s : State) (w : Word) : State :=
  { s with cmd := w, phase := .running { cmd := w, arg0 := s.arg0, arg1 := s.arg1, replies := [] } }

/-- A host write that is not performed while busy (60_exceptions R305). -/
def State.unlessBusy (s : State) (written : State) : State :=
  if s.busy then s.raise (.hostProtocol .writeWhileBusy) else written

/-- A host write to a register (60_exceptions R313): RESULT and STATUS ignore it. -/
def State.ctrlWrite (s : State) (v : Word) : CtrlReg → State
  | .cmd => s.unlessBusy (s.startCommand v)
  | .arg0 => s.unlessBusy { s with arg0 := v }
  | .arg1 => s.unlessBusy { s with arg1 := v }
  | .result => s
  | .status => s

/-- One host access (60_exceptions R305, R313). A write that is not a 32-bit access at one of the five offsets raises
BadAccess even while busy, when it is WriteWhileBusy's case too: 20_memory R62 and R305 give no order between the two kinds
(DESIGN CHOICE, log entry 20). -/
def State.hostAccess (s : State) (a : HostAccess) : State :=
  match a with
  | .read addr width =>
    match s.ctrlTarget addr width with
    | none => s.raise (.hostProtocol .badAccess)
    | some r => { s with readback := some (s.ctrlValue r) }
  | .write addr width v =>
    match s.ctrlTarget addr width with
    | none => s.raise (.hostProtocol .badAccess)
    | some r => s.ctrlWrite v r

/-- The host reads STATUS, its poll (70 R403). -/
def State.pollStatus (s : State) : State := { s with readback := some s.statusWord }

/-- A channel's clock (10_state R44): `F / divider` hertz, off, or unspecified. -/
inductive ChannelClock
  | running (divider : Nat)
  | off
  | unspecified
  deriving DecidableEq, Repr

/-- DIVx of CLK (10_state R23). -/
def clkDiv (clk : Word) : SharedClock → Nat
  | .a => (clk.extractLsb' 0 8).toNat
  | .b => (clk.extractLsb' 16 8).toNat

/-- PREx of CLK (10_state R23). -/
def clkPre (clk : Word) : SharedClock → Nat
  | .a => (clk.extractLsb' 8 4).toNat
  | .b => (clk.extractLsb' 24 4).toNat

/-- A shared clock's rate (10_state R23, R44). -/
def sharedClockRate (clk : Word) (ck : SharedClock) : ChannelClock :=
  if clkDiv clk ck = 0 then .off
  else if clkPre clk ck ≤ 10 then .running (Config.ladder (clkPre clk ck) * clkDiv clk ck)
  else .unspecified

/-- The prescaler selector CPRE of CMRc (10_state R27, R28). -/
def Chan.selector (ch : Chan) : Nat := (ch.cmr.extractLsb' 0 4).toNat

/-- CALG of CMRc (10_state R29). -/
def Chan.alignment (ch : Chan) : Alignment := if ch.cmr.getLsbD 8 then .center else .left

/-- CPOL of CMRc (10_state R29). -/
def Chan.polarity (ch : Chan) : Polarity := if ch.cmr.getLsbD 9 then .inverted else .normal

/-- The period CPRDc[15:0] (10_state R30). -/
def Chan.period (ch : Chan) : Nat := (ch.cprd.extractLsb' 0 16).toNat

/-- The duty cycle CDTYc[15:0] (10_state R32). -/
def Chan.duty (ch : Chan) : Nat := (ch.cdty.extractLsb' 0 16).toNat

/-- The channel clock (10_state R44). -/
def State.channelClock (s : State) (c : Channel) : ChannelClock :=
  let sel := (s.chan c).selector
  if sel ≤ 10 then .running (Config.ladder sel)
  else if sel = 11 then sharedClockRate s.clk .a
  else if sel = 12 then sharedClockRate s.clk .b
  else .unspecified

/-- A boundary is admitted unless the channel is disabled or its clock off (10_state R46 (a)). -/
def State.boundaryAdmitted (s : State) (c : Channel) : Bool :=
  (s.chan c).en && s.channelClock c != .off

/-- A boundary is weakly fair: enabled, a running clock and a period of at least 1 (10_state R46 (b)). -/
def State.boundaryFair (s : State) (c : Channel) : Bool :=
  (s.chan c).en && 1 ≤ (s.chan c).period &&
    match s.channelClock c with
    | .running _ => true
    | .off => false
    | .unspecified => false

/-- The pending transfer of the period (10_state R45). -/
def Chan.transferPrd (ch : Chan) : Chan :=
  if ch.pendPrd then { ch with cprd := ch.cprdupd, pendPrd := false } else ch

/-- The pending transfer of the duty cycle (10_state R45). -/
def Chan.transferDty (ch : Chan) : Chan :=
  if ch.pendDty then { ch with cdty := ch.cdtyupd, pendDty := false } else ch

/-- The pending transfer of the dead time (10_state R45). -/
def Chan.transferDt (ch : Chan) : Chan :=
  if ch.pendDt then { ch with dt := ch.dtupd, pendDt := false } else ch

/-- The requested disable (10_state R45). -/
def Chan.applyDisable (ch : Chan) : Chan :=
  if ch.disreq then { ch with en := false, disreq := false } else ch

/-- A channel at its period boundary, in R45's order. -/
def Chan.atBoundary (ch : Chan) : Chan := ch.transferPrd.transferDty.transferDt.applyDisable

/-- The period boundary of channel `c`, one atomic step (10_state R45). One that is not admitted does not occur
(R46, log entry 3). -/
def State.boundary (s : State) (c : Channel) : State :=
  if s.boundaryAdmitted c then s.setChan c (s.chan c).atBoundary else s

end Sys2Proof.Machine
end

