-- ==== Sys2Proof/Machine/Primitives.lean ====
section
/-! DEFINITION. The primitives the commands share, as pseudocode with a continuation `k` for what follows: set_field
and get_field (40_bitfield R111, R112), enable and disable (42_channel R150, R152), set_period and set_duty (R158,
R160), reset_channel (R162), set_clock and turn_off_clock (41_clock R130, R131) and the two resolver paths
(43_resolver R200 to R206). -/

namespace Sys2Proof.Machine

/-- `set_field(off, m, v)` (R111): a read, then a write of the word computed from it. -/
def Prog.setField (p : Params) (r : Reg) (m v : Word) (k : Prog) : Prog :=
  .read r fun old => .write r (insertField p.shiftRule old m v) k

/-- `get_field(off, m)` (R112). -/
def Prog.getField (p : Params) (r : Reg) (m : Word) (k : Word → Prog) : Prog :=
  .read r fun x => k (extractField p.shiftRule x m)

/-- `enable(m)` (42_channel R150): a plain write of ENA. -/
def Prog.enable (m : Word) (k : Prog) : Prog := .write .ena m k

/-- `disable(m)` (42_channel R152): a plain write of DIS, then the wait. -/
def Prog.disable (m : Word) (k : Prog) : Prog := .write .dis m (.waitClear m k)

/-- `set_period(c, v)` (R158): the SR value read selects the shadow or the direct register. -/
def Prog.setPeriod (p : Params) (c : Channel) (v : Word) (k : Prog) : Prog :=
  .read .sr fun sr =>
    if chBit sr c then setField p (.cprdupd c) cprdMask v k
    else setField p (.cprd c) cprdMask v k

/-- `set_duty(c, v)` (R160). -/
def Prog.setDuty (p : Params) (c : Channel) (v : Word) (k : Prog) : Prog :=
  .read .sr fun sr =>
    if chBit sr c then setField p (.cdtyupd c) cdtyMask v k
    else setField p (.cdty c) cdtyMask v k

/-- `set_field(reg, FULL_MASK, 0)` for each register of a list, in order (R162). -/
def Prog.zeroAll (p : Params) (regs : List Reg) (k : Prog) : Prog :=
  regs.foldr (fun r rest => setField p r fullMask 0 rest) k

/-- The registers reset_channel zeroes, in its order (R162). -/
def Prog.channelRegs (c : Channel) : List Reg :=
  [.cmr c, .cdty c, .cdtyupd c, .cprd c, .cprdupd c, .dt c, .dtupd c]

/-- `reset_channel(c)` (R162). -/
def Prog.resetChannel (p : Params) (c : Channel) (k : Prog) : Prog :=
  disable (channelBit c) (zeroAll p (channelRegs c) k)

/-- `set_clock(ck, pre, div)` (41_clock R130): prescaler, then divisor. -/
def Prog.setClock (p : Params) (ck : SharedClock) (pre div : Word) (k : Prog) : Prog :=
  setField p .clk ck.preMask pre (setField p .clk ck.divMask div k)

/-- `turn_off_clock(ck)` (41_clock R131). -/
def Prog.turnOffClock (p : Params) (ck : SharedClock) (k : Prog) : Prog :=
  setField p .clk ck.divMask 0 k

/-- `if was_enabled = 1: disable(1 << c)` (42_channel R164, 43_resolver R204). -/
def Prog.disableIf (en : Bool) (c : Channel) (k : Prog) : Prog :=
  if en then disable (channelBit c) k else k

/-- `if was_enabled = 1: enable(1 << c)` (42_channel R164, 43_resolver R204). -/
def Prog.enableIf (en : Bool) (c : Channel) (k : Prog) : Prog :=
  if en then enable (channelBit c) k else k

/-- The alignment factor `k` (43_resolver R200): 2 for Center, 1 for Left. -/
def alignFactor (calg : Word) : Nat := if calg = 1 then 2 else 1

/-- `P(i) = F / (f * 2^i * k)` (R201), exact (R208). -/
def candidatePeriod (F f k i : Nat) : Nat := F / (f * Config.ladder i * k)

/-- `d(i) = (F / 2^i) / f` (R202), exact (R208). -/
def candidateDivisor (F f i : Nat) : Nat := F / Config.ladder i / f

/-- `local_search(f, k)` (R201): the first ladder index whose candidate period is in range, and the period. -/
def localSearch (F f k : Nat) : Option (Nat × Nat) :=
  ((List.range Config.ladderSize).find? fun i => candidatePeriod F f k i ≤ Config.periodMax).map
    fun i => (i, candidatePeriod F f k i)

/-- `shared_search(f)` (R202). -/
def sharedSearch (F f : Nat) : Option (Nat × Nat) :=
  ((List.range Config.ladderSize).find? fun i => candidateDivisor F f i ≤ Config.divisorMax).map
    fun i => (i, candidateDivisor F f i)

/-- The frequency check (R203): `f = 0` or `f > F` is refused. -/
def badFrequency (p : Params) (f : Word) : Bool := f == 0 || Config.freq p < f.toNat

/-- The local payload `(i << 16) | P` (R210). -/
def localPayload (i P : Nat) : Word := (BitVec.ofNat 32 i <<< 16) ||| BitVec.ofNat 32 P

/-- The shared payload `(i << 8) | d` (R210). -/
def sharedPayload (i d : Nat) : Word := (BitVec.ofNat 32 i <<< 8) ||| BitVec.ofNat 32 d

/-- `resolve_local(c, f)` (R204). `k` takes an error, or the payload. -/
def Prog.resolveLocal (p : Params) (c : Channel) (f : Word) (k : Except ErrCode Word → Prog) : Prog :=
  if badFrequency p f then k (.error .freq)
  else
    getField p (.cmr c) calgMask fun calg =>
      match localSearch (Config.freq p) f.toNat (alignFactor calg) with
      | none => k (.error .exhausted)
      | some (i, P) =>
        if P = 0 then k (.error .zeroPeriod)
        else
          .read .sr fun sr =>
            disableIf (chBit sr c) c <|
            setPeriod p c (BitVec.ofNat 32 P) <|
            setField p (.cmr c) cpreMask (BitVec.ofNat 32 i) <|
            enableIf (chBit sr c) c <|
            k (.ok (localPayload i P))

/-- `resolve_shared(c, f, ck)` (R206). The alignment read that 60_exceptions R302 gives INITC before ERR_EXHAUSTED is no
access of this primitive, which SETCLKF runs too: `initcResolve` makes it (log entry 19). -/
def Prog.resolveShared (p : Params) (c : Channel) (f : Word) (ck : SharedClock) (k : Except ErrCode Word → Prog) : Prog :=
  if badFrequency p f then k (.error .freq)
  else
    match sharedSearch (Config.freq p) f.toNat with
    | none => k (.error .exhausted)
    | some (i, d) =>
      .read .sr fun sr =>
        disableIf (chBit sr c) c <|
        setClock p ck (BitVec.ofNat 32 i) (BitVec.ofNat 32 d) <|
        setField p (.cmr c) cpreMask ck.selector <|
        enableIf (chBit sr c) c <|
        k (.ok (sharedPayload i d))

/-- The end of SETFREQ and SETCLKF (R205, R207). -/
def Prog.finishWith : Except ErrCode Word → Prog
  | .ok r => .finish .ok r
  | .error e => .finish e 0

end Sys2Proof.Machine
end

