-- ==== Sys2Proof/Machine/Bitfield.lean ====
section
/-! DEFINITION. The accessor commands SETF and GETF (40_bitfield R113, R114). -/

namespace Sys2Proof.Machine

/-- SETF's pseudocode (R113). -/
def progSetf (regw : BitVec 10) (p : Params) (m v : Word) : Prog :=
  match regOfWord regw with
  | none => .finish .badRegister 0
  | some r =>
    if m = 0 then .finish .zeroMask 0
    else .setField p r m v (.finish .ok (BitVec.ofNat 32 (shiftOf p.shiftRule m)))

/-- GETF's pseudocode (R114). -/
def progGetf (regw : BitVec 10) (p : Params) (m _a1 : Word) : Prog :=
  match regOfWord regw with
  | none => .finish .badRegister 0
  | some r =>
    if m = 0 then .finish .zeroMask 0
    else .getField p r m fun x => .finish .ok x

/-- SETF (R113): mask ARG0, value ARG1. -/
def execSetf (regw : BitVec 10) (s : State) : Host.Outcome State Fault Refusal := s.runCommand (progSetf regw)

/-- GETF (R114): mask ARG0. -/
def execGetf (regw : BitVec 10) (s : State) : Host.Outcome State Fault Refusal := s.runCommand (progGetf regw)

end Sys2Proof.Machine
end

