-- ==== Sys2Proof/Machine/ChannelConf.lean ====
section
/-! DEFINITION. The channel configurator's commands (42_channel R150 to R168). -/

namespace Sys2Proof.Machine

/-- ENABLE's pseudocode (R151). -/
def progEnable (chm : BitVec 8) (_p : Params) (_a0 _a1 : Word) : Prog :=
  .enable (maskWord chm) (.finish .ok 0)

/-- DISABLE's pseudocode (R153). -/
def progDisable (chm : BitVec 8) (_p : Params) (_a0 _a1 : Word) : Prog :=
  .disable (maskWord chm) (.finish .ok 0)

/-- ISEN's pseudocode (R154). -/
def progIsen (ch : Channel) (_p : Params) (_a0 _a1 : Word) : Prog :=
  .read .sr fun sr => .finish .ok (if chBit sr ch then 1 else 0)

/-- SETALG's pseudocode (R155). -/
def progSetalg (ch : Channel) (p : Params) (a0 _a1 : Word) : Prog :=
  .setField p (.cmr ch) calgMask (argBit a0) (.finish .ok 0)

/-- SETPOL's pseudocode (R156). -/
def progSetpol (ch : Channel) (p : Params) (a0 _a1 : Word) : Prog :=
  .setField p (.cmr ch) cpolMask (argBit a0) (.finish .ok 0)

/-- SETPRE's pseudocode (R157). -/
def progSetpre (ch : Channel) (p : Params) (a0 _a1 : Word) : Prog :=
  .setField p (.cmr ch) cpreMask (argSelector a0) (.finish .ok 0)

/-- SETPER's pseudocode (R159). -/
def progSetper (ch : Channel) (p : Params) (a0 _a1 : Word) : Prog :=
  .setPeriod p ch (argHalf a0) (.finish .ok 0)

/-- SETDTY's pseudocode (R161). -/
def progSetdty (ch : Channel) (p : Params) (a0 _a1 : Word) : Prog :=
  .setDuty p ch (argHalf a0) (.finish .ok 0)

/-- RESETC's pseudocode (R163). -/
def progResetc (ch : Channel) (p : Params) (_a0 _a1 : Word) : Prog :=
  .resetChannel p ch (.finish .ok 0)

/-- The resolver path of INITC (R164): local, or shared with clock `clk`. On either path ERR_EXHAUSTED follows the alignment
read (60_exceptions R302): `resolveLocal` makes it, and on the shared path, where 43_resolver R206's own pseudocode makes
none, it stands here (DEDUCED, log entry 19). The word read is not used. -/
def initcResolve (p : Params) (ch : Channel) (f : Word) (clk : Option SharedClock) (k : Except ErrCode Word → Prog) :
    Prog :=
  match clk with
  | none => .resolveLocal p ch f k
  | some clk =>
    .resolveShared p ch f clk fun
      | .error e => .getField p (.cmr ch) calgMask fun _ => k (.error e)
      | .ok payload => k (.ok payload)

/-- INITC after its checks (R164). -/
def initcBody (p : Params) (ch : Channel) (align : Alignment) (pol : Polarity) (f duty : Word)
    (clk : Option SharedClock) : Prog :=
  .read .sr fun sr =>
    Prog.disableIf (chBit sr ch) ch <|
    initcResolve p ch f clk fun
      | .error e => Prog.enableIf (chBit sr ch) ch (.finish e 0)
      | .ok payload =>
        Prog.setField p (.cmr ch) calgMask (alignWord align) <|
        Prog.setField p (.cmr ch) cpolMask (polWord pol) <|
        Prog.setDuty p ch duty <|
        Prog.enableIf (chBit sr ch) ch (.finish .ok payload)

/-- INITC's pseudocode (R164): the clock identifier, then the frequency, are checked before any access. -/
def progInitc (ch : Channel) (align : Alignment) (pol : Polarity) (useClk : Bool) (ck : BitVec 2) (p : Params)
    (f a1 : Word) : Prog :=
  if useClk && (sharedClock ck).isNone then .finish .clockId 0
  else if badFrequency p f then .finish .freq 0
  else initcBody p ch align pol f (argHalf a1) (if useClk then sharedClock ck else none)

/-- GETPER's pseudocode (R165). -/
def progGetper (ch : Channel) (p : Params) (_a0 _a1 : Word) : Prog :=
  .getField p (.cprd ch) cprdMask fun x => .finish .ok x

/-- GETALG's pseudocode (R166). -/
def progGetalg (ch : Channel) (p : Params) (_a0 _a1 : Word) : Prog :=
  .getField p (.cmr ch) calgMask fun x => .finish .ok x

/-- GETPRE's pseudocode (R167). -/
def progGetpre (ch : Channel) (p : Params) (_a0 _a1 : Word) : Prog :=
  .getField p (.cmr ch) cpreMask fun x => .finish .ok x

/-- GETDTY's pseudocode (R168). -/
def progGetdty (ch : Channel) (p : Params) (_a0 _a1 : Word) : Prog :=
  .getField p (.cdty ch) cdtyMask fun x => .finish .ok x

/-- INITC (R164): frequency ARG0, duty cycle ARG1[15:0]. -/
def execInitc (ch : Channel) (align : Alignment) (pol : Polarity) (useClk : Bool) (ck : BitVec 2) (s : State) :
    Host.Outcome State Fault Refusal :=
  s.runCommand (progInitc ch align pol useClk ck)

/-- ENABLE (R151). -/
def execEnable (chm : BitVec 8) (s : State) : Host.Outcome State Fault Refusal := s.runCommand (progEnable chm)

/-- DISABLE (R153). -/
def execDisable (chm : BitVec 8) (s : State) : Host.Outcome State Fault Refusal := s.runCommand (progDisable chm)

/-- ISEN (R154). -/
def execIsen (ch : Channel) (s : State) : Host.Outcome State Fault Refusal := s.runCommand (progIsen ch)

/-- SETPOL (R156): polarity ARG0[0]. -/
def execSetpol (ch : Channel) (s : State) : Host.Outcome State Fault Refusal := s.runCommand (progSetpol ch)

/-- SETALG (R155): alignment ARG0[0]. -/
def execSetalg (ch : Channel) (s : State) : Host.Outcome State Fault Refusal := s.runCommand (progSetalg ch)

/-- SETPRE (R157): selector ARG0[3:0]. -/
def execSetpre (ch : Channel) (s : State) : Host.Outcome State Fault Refusal := s.runCommand (progSetpre ch)

/-- SETPER (R159): period ARG0[15:0]. -/
def execSetper (ch : Channel) (s : State) : Host.Outcome State Fault Refusal := s.runCommand (progSetper ch)

/-- SETDTY (R161): duty cycle ARG0[15:0]. -/
def execSetdty (ch : Channel) (s : State) : Host.Outcome State Fault Refusal := s.runCommand (progSetdty ch)

/-- RESETC (R163). -/
def execResetc (ch : Channel) (s : State) : Host.Outcome State Fault Refusal := s.runCommand (progResetc ch)

/-- GETPER (R165). -/
def execGetper (ch : Channel) (s : State) : Host.Outcome State Fault Refusal := s.runCommand (progGetper ch)

/-- GETALG (R166). -/
def execGetalg (ch : Channel) (s : State) : Host.Outcome State Fault Refusal := s.runCommand (progGetalg ch)

/-- GETPRE (R167). -/
def execGetpre (ch : Channel) (s : State) : Host.Outcome State Fault Refusal := s.runCommand (progGetpre ch)

/-- GETDTY (R168). -/
def execGetdty (ch : Channel) (s : State) : Host.Outcome State Fault Refusal := s.runCommand (progGetdty ch)

end Sys2Proof.Machine
end

