-- ==== Sys2Proof/Machine/ClockGen.lean ====
section
/-! DEFINITION. The clock generator's commands SETCLK and CLKOFF (41_clock R132, R133). -/

namespace Sys2Proof.Machine

/-- SETCLK's pseudocode (R132). -/
def progSetclk (ck : BitVec 2) (p : Params) (a0 _a1 : Word) : Prog :=
  match sharedClock ck with
  | none => .finish .clockId 0
  | some clk => .setClock p clk (argPreA a0) (argDivA a0) (.finish .ok 0)

/-- CLKOFF's pseudocode (R133). -/
def progClkoff (ck : BitVec 2) (p : Params) (_a0 _a1 : Word) : Prog :=
  match sharedClock ck with
  | none => .finish .clockId 0
  | some clk => .turnOffClock p clk (.finish .ok 0)

/-- SETCLK (R132): divisor ARG0[7:0], ladder index ARG0[11:8]. -/
def execSetclk (ck : BitVec 2) (s : State) : Host.Outcome State Fault Refusal := s.runCommand (progSetclk ck)

/-- CLKOFF (R133). -/
def execClkoff (ck : BitVec 2) (s : State) : Host.Outcome State Fault Refusal := s.runCommand (progClkoff ck)

end Sys2Proof.Machine
end

