-- ==== Sys2Proof/Machine/Lifecycle.lean ====
section
/-! DEFINITION. The whole-block commands INITP and RESETP (44_lifecycle R240, R241). -/

namespace Sys2Proof.Machine

/-- `if div != 0: set_clock(ck, pre, div)` (R240). -/
def setClockIf (p : Params) (clk : SharedClock) (pre div : Word) (k : Prog) : Prog :=
  if div = 0 then k else .setClock p clk pre div k

/-- INITP's pseudocode (R240). -/
def progInitp (p : Params) (a0 _a1 : Word) : Prog :=
  setClockIf p .a (argPreA a0) (argDivA a0) <|
  setClockIf p .b (argPreB a0) (argDivB a0) <|
  .finish .ok 0

/-- RESETP's pseudocode (R241): CLK first, then every channel in index order. -/
def progResetp (p : Params) (_a0 _a1 : Word) : Prog :=
  .setField p .clk fullMask 0 <|
  allChannels.foldr (fun c rest => .resetChannel p c rest) (.finish .ok 0)

/-- INITP (R240): clock settings ARG0 in CLK layout. -/
def execInitp (s : State) : Host.Outcome State Fault Refusal := s.runCommand progInitp

/-- RESETP (R241). -/
def execResetp (s : State) : Host.Outcome State Fault Refusal := s.runCommand progResetp

end Sys2Proof.Machine
end

