-- ==== Sys2Proof/Machine/Resolver.lean ====
section
/-! DEFINITION. The frequency resolver's commands SETFREQ and SETCLKF (43_resolver R205, R207). -/

namespace Sys2Proof.Machine

/-- SETFREQ's pseudocode (R205). -/
def progSetfreq (ch : Channel) (p : Params) (f _a1 : Word) : Prog :=
  .resolveLocal p ch f .finishWith

/-- SETCLKF's pseudocode (R207): the clock identifier is checked first (60_exceptions R306). -/
def progSetclkf (ch : Channel) (ck : BitVec 2) (p : Params) (f _a1 : Word) : Prog :=
  match sharedClock ck with
  | none => .finish .clockId 0
  | some clk => .resolveShared p ch f clk .finishWith

/-- SETFREQ (R205): frequency ARG0. -/
def execSetfreq (ch : Channel) (s : State) : Host.Outcome State Fault Refusal := s.runCommand (progSetfreq ch)

/-- SETCLKF (R207): frequency ARG0. -/
def execSetclkf (ch : Channel) (ck : BitVec 2) (s : State) : Host.Outcome State Fault Refusal :=
  s.runCommand (progSetclkf ch ck)

end Sys2Proof.Machine
end

