-- ==== Sys2Proof/Machine/Dispatch.lean ====
section
/-! DEFINITION. The controller sequencer's next atomic step of a command: one arm per command (30_encoding R90). -/

namespace Sys2Proof.Machine

/-- The next atomic step of command `i`: the access at the position `s` holds (10_state R43, 20_memory R63). -/
def exec (i : Instr) (s : State) : Host.Outcome State Fault Refusal :=
  match i with
  | .initp => Sys2Proof.Machine.execInitp s
  | .initc ch align pol useClk ck => Sys2Proof.Machine.execInitc ch align pol useClk ck s
  | .enable chm => Sys2Proof.Machine.execEnable chm s
  | .disable chm => Sys2Proof.Machine.execDisable chm s
  | .isen ch => Sys2Proof.Machine.execIsen ch s
  | .setpol ch => Sys2Proof.Machine.execSetpol ch s
  | .setalg ch => Sys2Proof.Machine.execSetalg ch s
  | .setpre ch => Sys2Proof.Machine.execSetpre ch s
  | .setper ch => Sys2Proof.Machine.execSetper ch s
  | .setdty ch => Sys2Proof.Machine.execSetdty ch s
  | .setfreq ch => Sys2Proof.Machine.execSetfreq ch s
  | .setclkf ch ck => Sys2Proof.Machine.execSetclkf ch ck s
  | .setclk ck => Sys2Proof.Machine.execSetclk ck s
  | .clkoff ck => Sys2Proof.Machine.execClkoff ck s
  | .resetc ch => Sys2Proof.Machine.execResetc ch s
  | .resetp => Sys2Proof.Machine.execResetp s
  | .getper ch => Sys2Proof.Machine.execGetper ch s
  | .getalg ch => Sys2Proof.Machine.execGetalg ch s
  | .getpre ch => Sys2Proof.Machine.execGetpre ch s
  | .getdty ch => Sys2Proof.Machine.execGetdty ch s
  | .setf regw => Sys2Proof.Machine.execSetf regw s
  | .getf regw => Sys2Proof.Machine.execGetf regw s

end Sys2Proof.Machine
end

