-- ==== Sys2Proof/Machine/Schedule.lean ====
section
/-! DEFINITION. One atomic step of one agent (00_scope R6, 20_memory R63): the sequencer's, with the decoding of the
latched word (30_encoding R91), the host's and a channel agent's, and the state a command word starts in. -/

namespace Sys2Proof.Machine

/-- The sequencer's step: nothing when Idle; an illegal word finishes with ERR_ILLEGAL (30_encoding R91); else the
next access of the latched command. -/
def sequencerStep (s : State) : Host.Outcome State Fault Refusal :=
  match s.phase with
  | .idle => .next s
  | .running l =>
    match decode l.cmd with
    | .ok i => exec i s
    | .error _ => .next (s.finish .illegal 0)

/-- What a host that polls until BUSY = 0 waits for: the sequencer's step while busy, then the poll that reads 0
(30_encoding R97, 70 R403). -/
def awaitStep (s : State) : Host.Outcome State Fault Refusal :=
  if s.busy then sequencerStep s else .next s.pollStatus

/-- One atomic step of the agent a move names. Once the fault mark is set no agent steps (60_exceptions R303). -/
def stepMove (m : Move) (s : State) : Host.Outcome State Fault Refusal :=
  match s.fault with
  | some f => .fault f
  | none =>
    match m with
    | .sequencer => sequencerStep s
    | .host a => .next (s.hostAccess a)
    | .boundary c => .next (s.boundary c)
    | .await => awaitStep s

/-- The script after a move: an `await` stays while the sequencer is busy (30_encoding R97). -/
def State.popScript (s : State) (m : Move) (rest : List Move) : State :=
  if m = .await ∧ s.busy = true then s else { s with script := rest }

/-- One step of the machine: the next move of the script, and the sequencer's when it is empty (log entry 2). -/
def scheduledStep (s : State) : Host.Outcome State Fault Refusal :=
  match s.script with
  | [] => stepMove .sequencer s
  | m :: rest => stepMove m (s.popScript m rest)

/-- The state right after the host wrote command word `w`, with the sequencer's move next (log entry 11). -/
def State.commandPlaced (s : State) (w : Word) : State :=
  { s.startCommand w with fault := none, script := .sequencer :: s.script }

end Sys2Proof.Machine
end

