-- ==== Sys2Proof/Machine/Step.lean ====
section
/-! DEFINITION. One step of the machine, and the placing of a table word as its next command. -/

namespace Sys2Proof.Machine

/-- One atomic step of one agent (20_memory R63, R67). -/
def step (s : State) : Host.Outcome State Fault Refusal := scheduledStep s

/-- `s` with the command of the table's bits `w` latched and the sequencer next, as right after the host's write of
CMD (60_exceptions R313, log entry 11). A command is one 32-bit word (30_encoding R95). -/
def State.withFetchWord (s : State) (nbits w : Nat) : State :=
  s.commandPlaced (BitVec.ofNat 32 (w % 2 ^ nbits))

end Sys2Proof.Machine
end

