-- ==== Sys2Proof/Safety.lean ====
section
/-! DEFINITION. What claims are stated in: the pseudocode of each command, runs of a command and of the machine, the
state invariant, the configuration premise and the output frequency (10_state R39, R46, R47, R50, 60_exceptions R311,
70_reset_and_hazards R425). -/

namespace Sys2Proof.Machine

/-- The pseudocode of each command, by its own definition. -/
def progOf : Instr → Params → Word → Word → Prog
  | .initp => progInitp
  | .initc ch align pol useClk ck => progInitc ch align pol useClk ck
  | .enable chm => progEnable chm
  | .disable chm => progDisable chm
  | .isen ch => progIsen ch
  | .setpol ch => progSetpol ch
  | .setalg ch => progSetalg ch
  | .setpre ch => progSetpre ch
  | .setper ch => progSetper ch
  | .setdty ch => progSetdty ch
  | .setfreq ch => progSetfreq ch
  | .setclkf ch ck => progSetclkf ch ck
  | .setclk ck => progSetclk ck
  | .clkoff ck => progClkoff ck
  | .resetc ch => progResetc ch
  | .resetp => progResetp
  | .getper ch => progGetper ch
  | .getalg ch => progGetalg ch
  | .getpre ch => progGetpre ch
  | .getdty ch => progGetdty ch
  | .setf regw => progSetf regw
  | .getf regw => progGetf regw

/-- `exec i`, `n` times in a row, leads from `s` to `t`: `n` consecutive accesses of command `i` with no other agent's
step between them. -/
def Runs (i : Instr) : Nat → State → State → Prop
  | 0, s, t => s = t
  | n + 1, s, t => ∃ s', exec i s = .next s' ∧ Runs i n s' t

/-- The command word, operands and replies of a running sequencer. -/
def State.At (s : State) (w a0 a1 : Word) (replies : List Word) : Prop :=
  s.phase = .running { cmd := w, arg0 := a0, arg1 := a1, replies := replies }

/-- set_field's formula with the shift written out (40_bitfield R111). -/
def putField (old m v : Word) (sh : Nat) : Word := (old &&& ~~~m) ||| (v <<< sh)

/-- CLK after set_clock of the clock `ck` names, 0 or 1 (41_clock R130), with masks and shifts written out. -/
def setClockWord (rule : ShiftRule) (ck : BitVec 2) (old pre div : Word) : Word :=
  if ck = 0 then putField (putField old 0xF00 pre (rule.pick 8 11)) 0xFF div (rule.pick 0 7)
  else putField (putField old 0x0F000000 pre (rule.pick 24 27)) 0x00FF0000 div (rule.pick 16 23)

/-- CMRc after INITC's selector, alignment and polarity writes (42_channel R164), with masks and shifts written out. -/
def initcMode (rule : ShiftRule) (old sel : Word) (al : Alignment) (pol : Polarity) : Word :=
  putField (putField (putField old 0xF sel (rule.pick 0 3)) 0x100 (match al with | .left => 0 | .center => 1) 8) 0x200
    (match pol with | .normal => 0 | .inverted => 1) 9

/-- `s` behind the DIS write of channel `c` (10_state R25): the request pending, the command at its wait with the replies
`vs`. -/
def State.disableRequested (s : State) (c : Channel) (w a0 a1 : Word) (vs : List Word) : State :=
  { s with
    chans := s.chans.set c { s.chan c with disreq := true }
    phase := .running { cmd := w, arg0 := a0, arg1 := a1, replies := vs } }

/-- `i` is the first of the ladder indices 0..10 whose candidate is at most `max` (43_resolver R201, R202). -/
def FirstInRange (candidate : Nat → Nat) (max i : Nat) : Prop :=
  i ≤ 10 ∧ candidate i ≤ max ∧ ∀ j, j < i → max < candidate j

/-- The registers of the block that store a word (10_state R36). -/
def Reg.stores : Reg → Bool
  | .ena | .dis | .sr => false
  | .clk | .cmr _ | .cdty _ | .cdtyupd _ | .cprd _ | .cprdupd _ | .dt _ | .dtupd _ => true

/-- The direct registers of 10_state R40. -/
def Reg.direct : Reg → Option (Channel × DirectReg)
  | .cprd c => some (c, .cprd)
  | .cdty c => some (c, .cdty)
  | .dt c => some (c, .dt)
  | .clk | .ena | .dis | .sr | .cmr _ | .cdtyupd _ | .cprdupd _ | .dtupd _ => none

/-- A channel with every hidden bit 0 (10_state R37 to R39). -/
def Chan.Quiet (ch : Chan) : Prop :=
  ch.en = false ∧ ch.disreq = false ∧ ch.pendPrd = false ∧ ch.pendDty = false ∧ ch.pendDt = false

/-- 10_state R39: a channel's pending and disable-request bits are 1 only while it is enabled. -/
def Chan.HiddenOk (ch : Chan) : Prop :=
  ch.en = true ∨ (ch.disreq = false ∧ ch.pendPrd = false ∧ ch.pendDty = false ∧ ch.pendDt = false)

/-- The invariant of the hidden channel state (10_state R39). -/
def State.Inv (s : State) : Prop := ∀ c, (s.chan c).HiddenOk

/-- `ChannelConfigOK(c)` (10_state R50). -/
def State.ConfigOk (s : State) (c : Channel) : Prop :=
  1 ≤ (s.chan c).period ∧ (s.chan c).duty ≤ (s.chan c).period ∧ (s.chan c).selector ≤ 12 ∧
    ((s.chan c).selector = 11 → clkPre s.clk .a ≤ 10) ∧ ((s.chan c).selector = 12 → clkPre s.clk .b ≤ 10)

/-- The alignment factor of a channel (43_resolver R200). -/
def Chan.factor (ch : Chan) : Nat :=
  match ch.alignment with
  | .left => 1
  | .center => 2

/-- The output frequency in hertz, an exact rational, where it is defined (10_state R47). -/
def State.outputFrequency (s : State) (c : Channel) : Option Rat :=
  match s.channelClock c with
  | .running divider =>
    if (s.chan c).en = true ∧ 1 ≤ (s.chan c).period then
      some ((Config.freq s.params : Rat) / divider / ((s.chan c).period * (s.chan c).factor : Nat))
    else none
  | .off => none
  | .unspecified => none

/-- The host's moves: its accesses and its polling. -/
def Move.isHost : Move → Bool
  | .host _ | .await => true
  | .sequencer | .boundary _ => false

/-- A final state of a run (70_reset_and_hazards R425): Idle, no fault, the host has no further move. Boundaries may
still be to come, and shadow transfers pending. -/
def State.Final (s : State) : Prop := s.phase = .idle ∧ s.fault = none ∧ ∀ m ∈ s.script, m.isHost = false

/-- The running command stands at the disable wait on mask `m` (42_channel R152). -/
def State.WaitsOn (s : State) (m : Word) : Prop :=
  ∃ l i k, s.phase = .running l ∧ decode l.cmd = .ok i ∧
    (progOf i s.params l.arg0 l.arg1).resume l.replies = .waitClear m k

/-- A hang (60_exceptions R311, 70_reset_and_hazards R412): the sequencer stands at a disable wait that names an
enabled channel whose clock is off. -/
def State.Hangs (s : State) (c : Channel) : Prop :=
  ∃ m, s.WaitsOn m ∧ chBit m c = true ∧ (s.chan c).en = true ∧ s.channelClock c = .off

/-- A schedule: the agent of every step. -/
abbrev Schedule := Nat → Move

/-- The state after `n` moves of a schedule. A state in which no step is possible stays (60_exceptions R303). -/
def runAt (σ : Schedule) (s : State) : Nat → State
  | 0 => s
  | n + 1 =>
    match stepMove (σ n) (runAt σ s n) with
    | .next t => t
    | .fault _ => runAt σ s n
    | .refused _ => runAt σ s n

/-- Weak fairness (10_state R46 (b)): a boundary that from some time on is always fair occurs after that time. -/
def WeaklyFair (σ : Schedule) (s : State) : Prop :=
  ∀ c n, (∀ k, n ≤ k → (runAt σ s k).boundaryFair c = true) → ∃ k, n ≤ k ∧ σ k = .boundary c

/-- The sequencer is never left without a step for ever (20_memory R63). -/
def SequencerFair (σ : Schedule) : Prop := ∀ n, ∃ k, n ≤ k ∧ σ k = .sequencer

/-- A host access that neither starts a command, nor changes an operand, nor faults (60_exceptions R313): a 32-bit read
of one of the five registers, or a write of RESULT or STATUS. -/
def HostAccess.Passive (p : Params) (a : HostAccess) : Prop :=
  (∃ off ∈ [0x00#32, 0x04#32, 0x08#32, 0x0C#32, 0x10#32], a = .read (p.ctrlBase + off) 4) ∨
  ∃ off ∈ [0x0C#32, 0x10#32], ∃ v, a = .write (p.ctrlBase + off) 4 v

/-- The host makes passive accesses only, its polling of STATUS among them: a run whose host stops writing commands is a
legal run (60_exceptions R313). -/
def HostPassive (p : Params) (σ : Schedule) : Prop :=
  ∀ n, σ n = .sequencer ∨ (∃ c, σ n = .boundary c) ∨ σ n = .await ∨ ∃ a, σ n = .host a ∧ a.Passive p

end Sys2Proof.Machine
end

