-- ==== Sys2Proof/Certificates/Slice0/Obligations.lean ====
section
/-! DEFINITION. The statements for the provers. A command's effect is stated as `Runs i n s t`: `exec i`, one atomic
access of the command a time (20_memory R63), gives next states from `s` to `t` in `n` steps (log entry 1). The
hardware has no memory (20_memory R60), so a frame is about registers, hidden bits and the command interface. -/

open Sys2Proof Sys2Proof.Machine

/-! ### Encoding -/

/-- 30_encoding R80 to R91: the decoder reads back every field of every word the encoder writes. -/
def Obligations.DecodeReadsBackEveryEncodedCommand : Prop :=
  ∀ i : Instr, i.wellFormed = true → decode (encode i) = .ok i

/-- 30_encoding R92: a word that decodes is the word of its command, so no two words are one command. -/
def Obligations.DecodedWordIsItsCommandsWord : Prop :=
  ∀ (w : Word) (i : Instr), decode w = .ok i → i.wellFormed = true ∧ encode i = w

/-- 30_encoding R90, R91: the decoder refuses exactly the words that match no row of the opcode map, and INITC with
USECLK = 0 and CK other than 0. -/
def Obligations.DecoderRefusesExactlyIllegalWords : Prop :=
  ∀ w : Word, (∃ e, decode w = .error e) ↔
    ((∀ row ∈ opcodeRows, w &&& row.1 ≠ row.2) ∨
      (w &&& 0xFC1FFFF8 = 0x08000000 ∧ w.getLsbD 23 = false ∧ w.extractLsb' 24 2 ≠ 0))

/-- Words of 95_test_vectors, written out from the formats of 30_encoding R82 to R88, one per family at least. -/
def Obligations.SampleWordsDecode : Prop :=
  decode 0x04000000 = .ok .initp ∧
  decode 0x09800000 = .ok (.initc 0 .left .normal true 1) ∧
  decode 0x08600000 = .ok (.initc 0 .center .inverted false 0) ∧
  decode 0x10000005 = .ok (.disable 5) ∧
  decode 0x1C000003 = .ok (.setalg 3) ∧
  decode 0x31000000 = .ok (.setclkf 0 1) ∧
  decode 0x34000001 = .ok (.setclk 1) ∧
  decode 0x5400009C = .ok (.setf 0x9C) ∧
  decode 0x00000000 = .error .unassignedOpcode ∧
  decode 0x54000400 = .error .reservedBitSet ∧
  decode 0x09000000 = .error .clockWithoutUse

/-! ### The step -/

/-- The step of a running sequencer is `exec` of the command its latched word decodes to, when the script names the
sequencer or has run out (30_encoding R91; the script is the model's choice, log entry 2). The third clause, that an await
at the head of the script is the sequencer's step while busy, is the model's choice too (DESIGN CHOICE, log entry 14): R97
says only that `@WAIT` is the host's polling. -/
def Obligations.StepRunsTheDecodedCommand : Prop :=
  ∀ (s : State) (l : Latch) (i : Instr), s.fault = none → s.phase = .running l → decode l.cmd = .ok i →
    (s.script = [] → step s = exec i s) ∧
    (∀ rest, s.script = .sequencer :: rest → step s = exec i { s with script := rest }) ∧
    (∀ rest, s.script = .await :: rest → step s = exec i s)

/-- 30_encoding R91: an illegal command finishes with ERR_ILLEGAL and 0 and changes nothing else. That it does so in a
step of the sequencer of its own, behind the CMD write, is the model's reading (DEDUCED, log entry 12): R91 says "at once"
and 60_exceptions R313 puts the decoding at the write. -/
def Obligations.IllegalWordFinishesWithErrIllegal : Prop :=
  ∀ (s : State) (l : Latch) (e : DecodeError), s.fault = none → s.phase = .running l → decode l.cmd = .error e →
    stepMove .sequencer s = .next { s with err := .illegal, result := 0, phase := .idle }

/-- 60_exceptions R303: the mark is set once, only from none, nothing clears it, no agent steps after it, the state is
never final, and FaultInfo has exactly the constructors of R304 and R305. -/
def Obligations.FaultMarkStopsEveryAgent : Prop :=
  State.reset.fault = none ∧
  (∀ (s : State) (f : Fault), s.fault = none → (s.raise f).fault = some f) ∧
  (∀ (s : State) (f : Fault), s.fault = some f →
    (∀ g, (s.raise g).fault = some f) ∧ (∀ m, stepMove m s = .fault f) ∧ step s = .fault f ∧ ¬ s.Final) ∧
  (∀ f : Fault, (∃ c r, f = .directWriteWhileEnabled c r) ∨ f = .hostProtocol .badAccess ∨
    f = .hostProtocol .writeWhileBusy)

/-- 10_state R49: the power-on reset state. The parameters and the model's own fields are not mentioned. -/
def Obligations.ResetLeavesEverythingZero : Prop :=
  State.reset.clk = 0 ∧
  (∀ c, State.reset.chan c =
    { cmr := 0, cdty := 0, cdtyupd := 0, cprd := 0, cprdupd := 0, dt := 0, dtupd := 0,
      en := false, disreq := false, pendPrd := false, pendDty := false, pendDt := false }) ∧
  State.reset.srWord = 0 ∧ State.reset.cmd = 0 ∧ State.reset.arg0 = 0 ∧ State.reset.arg1 = 0 ∧
  State.reset.result = 0 ∧ State.reset.statusWord = 0 ∧ State.reset.err = .ok ∧ State.reset.phase = .idle ∧
  State.reset.fault = none ∧
  (∃ n, State.reset.regValue .ena = Config.draw n ∧ State.reset.regValue .dis = Config.draw n)

/-- 10_state R39 at reset. -/
def Obligations.ResetMeetsHiddenInvariant : Prop := State.reset.Inv

/-- 10_state R39: `pend_prd`, `pend_dty`, `pend_dt` and `disreq` are 1 only while `en` is 1, kept by every step of
every agent from every state that has it. -/
def Obligations.EveryStepKeepsHiddenInvariant : Prop :=
  ∀ s t : State, s.Inv → step s = .next t → t.Inv

/-! ### The register block -/

/-- 10_state R26: SR's bits are `en`, bits 31..8 read 0, a channel whose disable is pending reads 1, and a write to SR
has no effect. -/
def Obligations.SrReportsEnabledChannels : Prop :=
  ∀ s : State, (∀ c, s.srWord.getLsbD c.val = (s.chan c).en) ∧ (∀ n, 8 ≤ n → s.srWord.getLsbD n = false) ∧
    s.regValue .sr = s.srWord ∧
    (∀ c, (s.chan c).en = true → (s.chan c).disreq = true → s.srWord.getLsbD c.val = true) ∧
    (∀ v, s.storeReg v .sr = s)

/-- 10_state R36: a read of a read/write register returns the word stored, all 32 bits of it, and leaves the state as
it is (20_memory R64). -/
def Obligations.StorageRegistersKeepAllBits : Prop :=
  ∀ (s : State) (v : Word) (r : Reg), r.stores = true →
    (s.storeReg v r).regValue r = v ∧ s.afterRead r = s

/-- 10_state R24: a write of ENA. The draw of a channel with a pending disable is either of its two outcomes. -/
def Obligations.EnaWriteEnablesNamedChannels : Prop :=
  ∀ (s : State) (v : Word) (c : Channel),
    ((s.storeReg v .ena).chan c = s.chan c ∨
      v.getLsbD c.val = true ∧
        ((s.chan c).en = false ∨ (s.chan c).en = true ∧ (s.chan c).disreq = true)) ∧
    (v.getLsbD c.val = true → (s.chan c).en = false →
      (s.storeReg v .ena).chan c = { s.chan c with en := true }) ∧
    (v.getLsbD c.val = true → (s.chan c).en = true → (s.chan c).disreq = true →
      (s.storeReg v .ena).chan c = { s.chan c with disreq := false } ∨ (s.storeReg v .ena).chan c = s.chan c) ∧
    (∀ v' : Word, (∀ d : Channel, v'.getLsbD d.val = v.getLsbD d.val) → s.storeReg v' .ena = s.storeReg v .ena) ∧
    s.regValue .ena = Config.draw s.draws

/-- 10_state R25: a write of DIS. -/
def Obligations.DisWriteRequestsNamedDisables : Prop :=
  ∀ (s : State) (v : Word) (c : Channel),
    (v.getLsbD c.val = true → (s.chan c).en = true →
      (s.storeReg v .dis).chan c = { s.chan c with disreq := true }) ∧
    (v.getLsbD c.val = true → (s.chan c).en = false → (s.storeReg v .dis).chan c = s.chan c) ∧
    (v.getLsbD c.val = false → (s.storeReg v .dis).chan c = s.chan c) ∧
    (∀ v' : Word, (∀ d : Channel, v'.getLsbD d.val = v.getLsbD d.val) → s.storeReg v' .dis = s.storeReg v .dis) ∧
    s.regValue .dis = Config.draw s.draws

/-- 10_state R31, R33 and the shadow half of R34: a shadow write stores the word and, on an enabled channel, arms the
transfer that the channel's next boundary makes. -/
def Obligations.ShadowWritesArmTransfers : Prop :=
  ∀ (s : State) (v : Word) (c : Channel),
    ((s.chan c).en = true →
      (s.storeReg v (.cprdupd c)).chan c = { s.chan c with cprdupd := v, pendPrd := true } ∧
      (s.storeReg v (.cdtyupd c)).chan c = { s.chan c with cdtyupd := v, pendDty := true } ∧
      (s.storeReg v (.dtupd c)).chan c = { s.chan c with dtupd := v, pendDt := true } ∧
      ((s.storeReg v (.cprdupd c)).chan c).atBoundary.cprd = v ∧
      ((s.storeReg v (.cdtyupd c)).chan c).atBoundary.cdty = v ∧
      ((s.storeReg v (.dtupd c)).chan c).atBoundary.dt = v) ∧
    ((s.chan c).en = false →
      (s.storeReg v (.cprdupd c)).chan c = { s.chan c with cprdupd := v } ∧
      (s.storeReg v (.cdtyupd c)).chan c = { s.chan c with cdtyupd := v } ∧
      (s.storeReg v (.dtupd c)).chan c = { s.chan c with dtupd := v }) ∧
    (s.storeReg v (.cprdupd c)).regValue (.cprdupd c) = v ∧
    (s.storeReg v (.cdtyupd c)).regValue (.cdtyupd c) = v ∧
    (s.storeReg v (.dtupd c)).regValue (.dtupd c) = v

/-- 10_state R40, 60_exceptions R304: SETF's write to a direct register of an enabled channel sets the fault mark
instead of writing; nothing else of the state changes. -/
def Obligations.DirectWriteWhileEnabledFaults : Prop :=
  ∀ (s : State) (w m v old : Word) (regw : BitVec 10) (r : Reg) (c : Channel) (d : DirectReg),
    s.At w m v [old] → m ≠ 0 → regOfWord regw = some r → r.direct = some (c, d) → (s.chan c).en = true →
    s.fault = none →
      exec (.setf regw) s = .next { s with fault := some (.directWriteWhileEnabled c d) }

/-- 10_state R45: the period boundary, transfers before the disable, and nothing else of the state. R46 (a) admits none for
a disabled channel or one whose clock is off; that such a move then answers the state unchanged is the model's choice
(DESIGN CHOICE, log entry 3). -/
def Obligations.BoundaryTransfersThenDisables : Prop :=
  ∀ (s : State) (c : Channel), s.fault = none →
    ((s.chan c).en = true → s.channelClock c ≠ .off →
      stepMove (.boundary c) s = .next
        { s with
          chans := s.chans.set c
            { s.chan c with
              cprd := if (s.chan c).pendPrd = true then (s.chan c).cprdupd else (s.chan c).cprd
              cdty := if (s.chan c).pendDty = true then (s.chan c).cdtyupd else (s.chan c).cdty
              dt := if (s.chan c).pendDt = true then (s.chan c).dtupd else (s.chan c).dt
              pendPrd := false, pendDty := false, pendDt := false
              en := if (s.chan c).disreq = true then false else true
              disreq := false } }) ∧
    ((s.chan c).en = false ∨ s.channelClock c = .off → stepMove (.boundary c) s = .next s)

/-- 20_memory R63, R70, 70_reset_and_hazards R417: the write of SETPER and SETDTY goes to the register the SR read
selected and is computed from the word read, whatever the channel's state is by then; a shadow write that finds the
channel disabled arms no transfer. -/
def Obligations.ShadowWriteAfterDisableIsLost : Prop :=
  ∀ (s : State) (w a0 a1 sr old : Word) (c : Channel),
    s.At w a0 a1 [sr, old] → sr.getLsbD c.val = true → (s.chan c).en = false → (s.chan c).pendPrd = false →
    (s.chan c).pendDty = false →
      (∃ t, exec (.setper c) s = .next t ∧
        (t.chan c).cprdupd = putField old 0xFFFF (a0 &&& 0xFFFF) (s.params.shiftRule.pick 0 15) ∧
        (t.chan c).pendPrd = false ∧ (t.chan c).cprd = (s.chan c).cprd) ∧
      (∃ t, exec (.setdty c) s = .next t ∧
        (t.chan c).cdtyupd = putField old 0xFFFF (a0 &&& 0xFFFF) (s.params.shiftRule.pick 0 15) ∧
        (t.chan c).pendDty = false ∧ (t.chan c).cdty = (s.chan c).cdty)

/-- 10_state R44, in the numbers of CMRc and CLK (R23, R27). -/
def Obligations.ChannelClockFollowsSelector : Prop :=
  ∀ (s : State) (c : Channel) (sel divA preA divB preB : Nat),
    sel = (s.chan c).cmr.toNat % 16 → divA = s.clk.toNat % 256 → preA = s.clk.toNat / 2 ^ 8 % 16 →
    divB = s.clk.toNat / 2 ^ 16 % 256 → preB = s.clk.toNat / 2 ^ 24 % 16 →
      (sel ≤ 10 → s.channelClock c = .running (2 ^ sel)) ∧
      (sel = 11 → 1 ≤ divA → preA ≤ 10 → s.channelClock c = .running (2 ^ preA * divA)) ∧
      (sel = 12 → 1 ≤ divB → preB ≤ 10 → s.channelClock c = .running (2 ^ preB * divB)) ∧
      (sel = 11 ∧ divA = 0 ∨ sel = 12 ∧ divB = 0 → s.channelClock c = .off) ∧
      (13 ≤ sel ∨ sel = 11 ∧ 1 ≤ divA ∧ 11 ≤ preA ∨ sel = 12 ∧ 1 ≤ divB ∧ 11 ≤ preB →
        s.channelClock c = .unspecified)

/-- 10_state R47: the output frequency of an enabled channel with a running clock and a period of at least 1; no value
otherwise. -/
def Obligations.OutputFrequencyIsClockOverPeriod : Prop :=
  ∀ (s : State) (c : Channel),
    (∀ divider, (s.chan c).en = true → s.channelClock c = .running divider →
      1 ≤ (s.chan c).cprd.toNat % 65536 →
        s.outputFrequency c = some ((s.params.sysClock.toNat : Rat) / divider /
          (((s.chan c).cprd.toNat % 65536 : Nat) * (if (s.chan c).cmr.getLsbD 8 = true then 2 else 1)))) ∧
    ((s.chan c).en = false ∨ (s.chan c).cprd.toNat % 65536 = 0 ∨ s.channelClock c = .off ∨
      s.channelClock c = .unspecified → s.outputFrequency c = none)

/-! ### The host -/

/-- 60_exceptions R313, 10_state R41: the host's accesses to the five registers, one step each. Three points are the
model's: the word a read returns is kept in `readback` (DESIGN CHOICE, log entry 7); addresses are 32 bits and wrap modulo
2^32, so the clauses hold for every CTRL_BASE (DESIGN CHOICE, log entry 18); the write of an illegal word leaves the
sequencer running, for its next step to finish (DEDUCED, log entry 12). -/
def Obligations.HostAccessesFollowInteractionTable : Prop :=
  ∀ s : State, s.fault = none →
    (s.phase = .idle → ∀ v,
      stepMove (.host (.write (s.params.ctrlBase + 0x00) 4 v)) s = .next
        { s with cmd := v, phase := .running { cmd := v, arg0 := s.arg0, arg1 := s.arg1, replies := [] } } ∧
      stepMove (.host (.write (s.params.ctrlBase + 0x04) 4 v)) s = .next { s with arg0 := v } ∧
      stepMove (.host (.write (s.params.ctrlBase + 0x08) 4 v)) s = .next { s with arg1 := v }) ∧
    (∀ v, stepMove (.host (.write (s.params.ctrlBase + 0x0C) 4 v)) s = .next s ∧
      stepMove (.host (.write (s.params.ctrlBase + 0x10) 4 v)) s = .next s) ∧
    stepMove (.host (.read (s.params.ctrlBase + 0x00) 4)) s = .next { s with readback := some s.cmd } ∧
    stepMove (.host (.read (s.params.ctrlBase + 0x04) 4)) s = .next { s with readback := some s.arg0 } ∧
    stepMove (.host (.read (s.params.ctrlBase + 0x08) 4)) s = .next { s with readback := some s.arg1 } ∧
    stepMove (.host (.read (s.params.ctrlBase + 0x0C) 4)) s = .next { s with readback := some s.result } ∧
    stepMove (.host (.read (s.params.ctrlBase + 0x10) 4)) s = .next { s with readback := some s.statusWord }

/-- 60_exceptions R305: a bad access, or a write of CMD, ARG0 or ARG1 while busy, sets the fault mark and is not
performed. That addresses are 32 bits and offsets are taken modulo 2^32, for every CTRL_BASE, is the model's choice (DESIGN
CHOICE, log entry 18), and so is that BadAccess comes before WriteWhileBusy where a write is both (DESIGN CHOICE, log entry
20). -/
def Obligations.HostBreachesFault : Prop :=
  ∀ (s : State) (addr v : Word) (width off : Nat), s.fault = none → addr = s.params.ctrlBase + BitVec.ofNat 32 off →
    off < 2 ^ 32 →
    ((width ≠ 4 ∨ off ∉ [0x00, 0x04, 0x08, 0x0C, 0x10]) →
      stepMove (.host (.write addr width v)) s = .next { s with fault := some (.hostProtocol .badAccess) } ∧
      stepMove (.host (.read addr width)) s = .next { s with fault := some (.hostProtocol .badAccess) }) ∧
    (width = 4 → off ∈ [0x00, 0x04, 0x08] → s.phase ≠ .idle →
      stepMove (.host (.write addr width v)) s = .next { s with fault := some (.hostProtocol .writeWhileBusy) })

/-- 10_state R42 and R43 (BUSY is 1 exactly when phase is Running), 60_exceptions R300: STATUS. -/
def Obligations.StatusHoldsBusyAndErrorCode : Prop :=
  ∀ s : State, s.statusWord.toNat = (if s.phase = .idle then 0 else 2 ^ 31) +
    (match s.err with
      | .ok => 0
      | .freq => 1
      | .clockId => 2
      | .exhausted => 3
      | .zeroPeriod => 4
      | .zeroMask => 5
      | .illegal => 6
      | .badRegister => 7)

/-! ### The bitfield accessor -/

/-- 40_bitfield R110: the shift is the lowest, or the topmost, set bit of a nonzero mask. -/
def Obligations.ShiftIsLowestOrTopmostSetBit : Prop :=
  ∀ m : Word, m ≠ 0 →
    (m.getLsbD (shiftOf .lowest m) = true ∧ shiftOf .lowest m < 32 ∧ ∀ n, n < shiftOf .lowest m → m.getLsbD n = false) ∧
    (m.getLsbD (shiftOf .topmost m) = true ∧ shiftOf .topmost m < 32 ∧
      ∀ n, shiftOf .topmost m < n → m.getLsbD n = false)

/-- 40_bitfield R115: set_field then get_field of a contiguous mask of width `w` at bit `n` gives the value back and
keeps every bit outside the mask, under Lowest; under Topmost it does both for one-bit masks, and fails for some fitting
value of every wider mask. -/
def Obligations.FieldRoundTripHoldsUnderLowest : Prop :=
  ∀ (old v : Word) (n w : Nat), 1 ≤ w → n + w ≤ 32 →
    (v.toNat < 2 ^ w →
      extractField .lowest (insertField .lowest old (BitVec.ofNat 32 (2 ^ w - 1) <<< n) v)
          (BitVec.ofNat 32 (2 ^ w - 1) <<< n) = v ∧
      ∀ k, (k < n ∨ n + w ≤ k) →
        (insertField .lowest old (BitVec.ofNat 32 (2 ^ w - 1) <<< n) v).getLsbD k = old.getLsbD k) ∧
    (w = 1 → v.toNat < 2 →
      extractField .topmost (insertField .topmost old (1#32 <<< n) v) (1#32 <<< n) = v ∧
      ∀ k, k ≠ n → (insertField .topmost old (1#32 <<< n) v).getLsbD k = old.getLsbD k) ∧
    (2 ≤ w → ∃ u : Word, u.toNat < 2 ^ w ∧
      extractField .topmost (insertField .topmost old (BitVec.ofNat 32 (2 ^ w - 1) <<< n) u)
        (BitVec.ofNat 32 (2 ^ w - 1) <<< n) ≠ u)

/-- 10_state R22, R35: an offset names a register exactly when it is that register's offset. -/
def Obligations.RegisterMapIsExact : Prop :=
  (∀ r : Reg, regAt r.offset = some r) ∧ (∀ (off : Nat) (r : Reg), regAt off = some r → r.offset = off) ∧
  (∀ c : Channel, (Reg.cmr c).offset = 0x200 + 0x20 * c.val ∧ regAt (0x200 + 0x20 * c.val + 0x14) = none)

/-- 40_bitfield R113, R111: SETF reads the register, writes the word with the field cleared and the shifted value ORed
in unmasked, and reports the shift. -/
def Obligations.SetfCompletes : Prop :=
  ∀ (s : State) (w m v : Word) (regw : BitVec 10) (r : Reg), s.At w m v [] → m ≠ 0 → regOfWord regw = some r →
    (∀ c d, r.direct = some (c, d) → (s.chan c).en = false) →
      Runs (.setf regw) 3 s
        { (s.afterRead r).storeReg (putField (s.regValue r) m v (shiftOf s.params.shiftRule m)) r with
          err := .ok, result := BitVec.ofNat 32 (shiftOf s.params.shiftRule m), phase := .idle }

/-- 40_bitfield R114, R112: GETF reads the register and reports the field. -/
def Obligations.GetfCompletes : Prop :=
  ∀ (s : State) (w m a1 : Word) (regw : BitVec 10) (r : Reg), s.At w m a1 [] → m ≠ 0 → regOfWord regw = some r →
    Runs (.getf regw) 2 s
      { s.afterRead r with
        err := .ok, result := (s.regValue r &&& m) >>> shiftOf s.params.shiftRule m, phase := .idle }

/-- 40_bitfield R113, R114, 60_exceptions R306: an unmapped offset, then a zero mask, is refused before any access. -/
def Obligations.AccessorRefusalsPrecedeAnyAccess : Prop :=
  ∀ (s : State) (w m v : Word) (regw : BitVec 10), s.At w m v [] →
    (regOfWord regw = none →
      exec (.setf regw) s = .next { s with err := .badRegister, result := 0, phase := .idle } ∧
      exec (.getf regw) s = .next { s with err := .badRegister, result := 0, phase := .idle }) ∧
    (∀ r, regOfWord regw = some r → m = 0 →
      exec (.setf regw) s = .next { s with err := .zeroMask, result := 0, phase := .idle } ∧
      exec (.getf regw) s = .next { s with err := .zeroMask, result := 0, phase := .idle })

/-- 70_reset_and_hazards R419: a full-mask SETF of ENA under Lowest writes exactly its value, whatever the read drew. -/
def Obligations.FullMaskSetfOfEnaIgnoresTheDraw : Prop :=
  ∀ (s : State) (w v : Word), s.At w 0xFFFFFFFF v [] → s.params.shiftRule = .lowest →
    (∀ c, (s.chan c).disreq = false) →
      ∃ t, Runs (.setf 1) 3 s t ∧ t.phase = .idle ∧ t.err = .ok ∧ t.result = 0 ∧
        ∀ c, t.chan c = { s.chan c with en := (s.chan c).en || v.getLsbD c.val }

/-! ### The clock generator and the lifecycle -/

/-- 41_clock R130 to R133: SETCLK writes the prescaler and the divisor of one clock, CLKOFF its divisor only, under
either shift rule (70_reset_and_hazards R418). -/
def Obligations.ClockCommandsComplete : Prop :=
  ∀ (s : State) (w a0 a1 : Word), s.At w a0 a1 [] →
    Runs (.setclk 0) 5 s
      { s with
        clk := putField (putField s.clk 0xF00 (a0 >>> 8 &&& 0xF) (s.params.shiftRule.pick 8 11)) 0xFF (a0 &&& 0xFF)
          (s.params.shiftRule.pick 0 7)
        err := .ok, result := 0, phase := .idle } ∧
    Runs (.setclk 1) 5 s
      { s with
        clk := putField (putField s.clk 0x0F000000 (a0 >>> 8 &&& 0xF) (s.params.shiftRule.pick 24 27)) 0x00FF0000
          (a0 &&& 0xFF) (s.params.shiftRule.pick 16 23)
        err := .ok, result := 0, phase := .idle } ∧
    Runs (.clkoff 0) 3 s { s with clk := s.clk &&& 0xFFFFFF00, err := .ok, result := 0, phase := .idle } ∧
    Runs (.clkoff 1) 3 s { s with clk := s.clk &&& 0xFF00FFFF, err := .ok, result := 0, phase := .idle }

/-- 30_encoding R93: CK = 2 and 3 are refused before any access. -/
def Obligations.UnrecognizedClockIsRefused : Prop :=
  ∀ (s : State) (w a0 a1 : Word) (ck : BitVec 2) (ch : Channel) (al : Sys2Proof.Alignment) (pol : Polarity), s.At w a0 a1 [] →
    sharedClock 0 = some .a ∧ sharedClock 1 = some .b ∧
    (2 ≤ ck.toNat →
      exec (.setclk ck) s = .next { s with err := .clockId, result := 0, phase := .idle } ∧
      exec (.clkoff ck) s = .next { s with err := .clockId, result := 0, phase := .idle } ∧
      exec (.setclkf ch ck) s = .next { s with err := .clockId, result := 0, phase := .idle } ∧
      exec (.initc ch al pol true ck) s = .next { s with err := .clockId, result := 0, phase := .idle })

/-- 44_lifecycle R240: INITP sets each clock whose requested divisor is not 0, clock A first, and leaves the other. -/
def Obligations.InitpCompletes : Prop :=
  ∀ (s : State) (w a0 a1 clkA clkAB : Word), s.At w a0 a1 [] →
    clkA = (if a0 &&& 0xFF = 0 then s.clk else
      putField (putField s.clk 0xF00 (a0 >>> 8 &&& 0xF) (s.params.shiftRule.pick 8 11)) 0xFF (a0 &&& 0xFF)
        (s.params.shiftRule.pick 0 7)) →
    clkAB = (if a0 &&& 0x00FF0000 = 0 then clkA else
      putField (putField clkA 0x0F000000 (a0 >>> 24 &&& 0xF) (s.params.shiftRule.pick 24 27)) 0x00FF0000
        (a0 >>> 16 &&& 0xFF) (s.params.shiftRule.pick 16 23)) →
      Runs .initp
        ((if a0 &&& 0xFF = 0 then 0 else 4) + (if a0 &&& 0x00FF0000 = 0 then 0 else 4) + 1) s
        { s with clk := clkAB, err := .ok, result := 0, phase := .idle }

/-- 44_lifecycle R241, 42_channel R162, 70_reset_and_hazards R401, R413, under either shift rule. RESETP zeroes CLK first;
channel `c`'s DIS write follows 2 + 16 * c replies, its wait one more. There it holds while the channel is enabled; behind
it 14 accesses zero the channel's registers and the next channel, or `finish`, comes. With all channels disabled the whole
command leaves CLK, every channel register and every hidden bit 0. -/
def Obligations.ResetpZeroesTheBlock : Prop :=
  ∀ (s : State) (w a0 a1 : Word),
    (s.At w a0 a1 [] → (∀ c, (s.chan c).Quiet) →
      Runs .resetp 131 s
        { s with clk := State.reset.clk, chans := State.reset.chans, err := .ok, result := 0, phase := .idle }) ∧
    (s.At w a0 a1 [] →
      Runs .resetp 2 s
        { s with clk := 0, phase := .running { cmd := w, arg0 := a0, arg1 := a1, replies := [s.clk, 0] } }) ∧
    (∀ (c : Channel) (vs : List Word), s.At w a0 a1 vs →
      (vs.length = 2 + 16 * c.val →
        ((s.chan c).en = true →
          exec .resetp s = .next (s.disableRequested c w a0 a1 (vs ++ [channelBit c]))) ∧
        ((s.chan c).en = false →
          exec .resetp s = .next
            { s with phase := .running { cmd := w, arg0 := a0, arg1 := a1, replies := vs ++ [channelBit c] } })) ∧
      (vs.length = 3 + 16 * c.val →
        ((s.chan c).en = true → exec .resetp s = .next s) ∧
        ((s.chan c).Quiet → ∃ vs' : List Word, vs'.length = 2 + 16 * (c.val + 1) ∧
          Runs .resetp 15 s
            { s with
              chans := s.chans.set c Chan.reset
              phase := .running { cmd := w, arg0 := a0, arg1 := a1, replies := vs' } }))) ∧
    (∀ vs : List Word, vs.length = 130 → s.At w a0 a1 vs →
      exec .resetp s = .next { s with err := .ok, result := 0, phase := .idle })

/-! ### The channel configurator -/

/-- 42_channel R150, R151: ENABLE enables every named channel at once; a named channel with a disable pending gets
either outcome of 10_state R24's draw, and the others stay. -/
def Obligations.EnableCompletes : Prop :=
  ∀ (s : State) (w a0 a1 : Word) (chm : BitVec 8), s.At w a0 a1 [] →
    ∃ t, Runs (.enable chm) 2 s t ∧ t.phase = .idle ∧ t.err = .ok ∧ t.result = 0 ∧ t.clk = s.clk ∧
      ∀ c : Channel,
        (chm.getLsbD c.val = true → (t.chan c).en = true ∧
          (t.chan c = { s.chan c with en := true } ∨
            (s.chan c).en = true ∧ t.chan c = { s.chan c with en := true, disreq := false })) ∧
        (chm.getLsbD c.val = false → t.chan c = s.chan c)

/-- 42_channel R152, R153: DISABLE of channels that are all disabled already finishes at once. -/
def Obligations.DisableOfDisabledChannelsCompletes : Prop :=
  ∀ (s : State) (w a0 a1 : Word) (chm : BitVec 8), s.At w a0 a1 [] →
    (∀ c : Channel, chm.getLsbD c.val = true → (s.chan c).en = false) →
      Runs (.disable chm) 3 s { s with err := .ok, result := 0, phase := .idle }

/-- 42_channel R152, R153, 60_exceptions R311: DISABLE first requests the disable of every enabled named channel, then
holds, changing nothing, while a named channel is enabled, and goes on when none is. -/
def Obligations.DisableWaitsForEveryNamedChannel : Prop :=
  ∀ (s : State) (w a0 a1 v : Word) (chm : BitVec 8),
    (s.At w a0 a1 [] → ∃ t, exec (.disable chm) s = .next t ∧ t.busy = true ∧
      ∀ c : Channel, t.chan c =
        { s.chan c with disreq := (s.chan c).disreq || (chm.getLsbD c.val && (s.chan c).en) }) ∧
    (s.At w a0 a1 [v] → (∃ c : Channel, chm.getLsbD c.val = true ∧ (s.chan c).en = true) →
      exec (.disable chm) s = .next s) ∧
    (s.At w a0 a1 [v] → (∀ c : Channel, chm.getLsbD c.val = true → (s.chan c).en = false) →
      Runs (.disable chm) 2 s { s with err := .ok, result := 0, phase := .idle })

/-- 42_channel R154, R165 to R168: ISEN reports the enabled bit, the getters the direct registers' fields (one bit of
them under Topmost, 70_reset_and_hazards R418); nothing else changes. -/
def Obligations.ReadersComplete : Prop :=
  ∀ (s : State) (w a0 a1 : Word) (c : Channel), s.At w a0 a1 [] →
    Runs (.isen c) 2 s { s with err := .ok, result := if (s.chan c).en = true then 1 else 0, phase := .idle } ∧
    Runs (.getper c) 2 s
      { s with
        err := .ok, result := ((s.chan c).cprd &&& 0xFFFF) >>> s.params.shiftRule.pick 0 15, phase := .idle } ∧
    Runs (.getalg c) 2 s
      { s with err := .ok, result := if (s.chan c).cmr.getLsbD 8 = true then 1 else 0, phase := .idle } ∧
    Runs (.getpre c) 2 s
      { s with err := .ok, result := ((s.chan c).cmr &&& 0xF) >>> s.params.shiftRule.pick 0 3, phase := .idle } ∧
    Runs (.getdty c) 2 s
      { s with
        err := .ok, result := ((s.chan c).cdty &&& 0xFFFF) >>> s.params.shiftRule.pick 0 15, phase := .idle }

/-- 42_channel R155, R156: SETALG and SETPOL write one bit of CMRc from ARG0[0], at once, whether or not the channel is
enabled and under either shift rule. -/
def Obligations.AlignmentAndPolarityComplete : Prop :=
  ∀ (s : State) (w a0 a1 : Word) (c : Channel), s.At w a0 a1 [] →
    Runs (.setalg c) 3 s
      { s with
        chans := s.chans.set c
          { s.chan c with
            cmr := if a0.getLsbD 0 = true then (s.chan c).cmr ||| 0x100 else (s.chan c).cmr &&& 0xFFFFFEFF }
        err := .ok, result := 0, phase := .idle } ∧
    Runs (.setpol c) 3 s
      { s with
        chans := s.chans.set c
          { s.chan c with
            cmr := if a0.getLsbD 0 = true then (s.chan c).cmr ||| 0x200 else (s.chan c).cmr &&& 0xFFFFFDFF }
        err := .ok, result := 0, phase := .idle }

/-- 42_channel R157: SETPRE writes the selector ARG0[3:0], unchecked, whether or not the channel is enabled. -/
def Obligations.SelectorCompletes : Prop :=
  ∀ (s : State) (w a0 a1 : Word) (c : Channel), s.At w a0 a1 [] →
    Runs (.setpre c) 3 s
      { s with
        chans := s.chans.set c
          { s.chan c with
            cmr := putField (s.chan c).cmr 0xF (a0 &&& 0xF) (s.params.shiftRule.pick 0 3) }
        err := .ok, result := 0, phase := .idle }

/-- 42_channel R158 to R161: SETPER and SETDTY write the shadow register of an enabled channel, arming its transfer,
and the direct register of a disabled one, at once. -/
def Obligations.PeriodAndDutyComplete : Prop :=
  ∀ (s : State) (w a0 a1 : Word) (c : Channel), s.At w a0 a1 [] →
    ((s.chan c).en = true →
      Runs (.setper c) 4 s
        { s with
          chans := s.chans.set c
            { s.chan c with
              cprdupd := putField (s.chan c).cprdupd 0xFFFF (a0 &&& 0xFFFF) (s.params.shiftRule.pick 0 15)
              pendPrd := true }
          err := .ok, result := 0, phase := .idle } ∧
      Runs (.setdty c) 4 s
        { s with
          chans := s.chans.set c
            { s.chan c with
              cdtyupd := putField (s.chan c).cdtyupd 0xFFFF (a0 &&& 0xFFFF) (s.params.shiftRule.pick 0 15)
              pendDty := true }
          err := .ok, result := 0, phase := .idle }) ∧
    ((s.chan c).en = false →
      Runs (.setper c) 4 s
        { s with
          chans := s.chans.set c
            { s.chan c with
              cprd := putField (s.chan c).cprd 0xFFFF (a0 &&& 0xFFFF) (s.params.shiftRule.pick 0 15) }
          err := .ok, result := 0, phase := .idle } ∧
      Runs (.setdty c) 4 s
        { s with
          chans := s.chans.set c
            { s.chan c with
              cdty := putField (s.chan c).cdty 0xFFFF (a0 &&& 0xFFFF) (s.params.shiftRule.pick 0 15) }
          err := .ok, result := 0, phase := .idle })

/-- 42_channel R162, R163: RESETC of a disabled channel leaves its seven registers 0, with no wait; on an enabled one it
requests the disable, holds while the channel is enabled, and then zeroes them. -/
def Obligations.ResetcZeroesTheChannel : Prop :=
  ∀ (s : State) (w a0 a1 : Word) (c : Channel),
    (s.At w a0 a1 [] → (s.chan c).Quiet →
      Runs (.resetc c) 17 s
        { s with chans := s.chans.set c Chan.reset, err := .ok, result := 0, phase := .idle }) ∧
    (s.At w a0 a1 [] → (s.chan c).en = true →
      exec (.resetc c) s = .next (s.disableRequested c w a0 a1 [channelBit c])) ∧
    (∀ v : Word, s.At w a0 a1 [v] →
      ((s.chan c).en = true → exec (.resetc c) s = .next s) ∧
      ((s.chan c).Quiet →
        Runs (.resetc c) 16 s
          { s with chans := s.chans.set c Chan.reset, err := .ok, result := 0, phase := .idle }))

/-- 42_channel R164, local path: the frequency is resolved for the alignment CMRc holds (70_reset_and_hazards R415), then
alignment, polarity and duty cycle are written, and the payload reported. An enabled channel's disable is requested first
and waited for, and the channel is enabled again at the end, which uses up one draw (log entry 6). -/
def Obligations.InitcLocalCompletes : Prop :=
  ∀ (s : State) (w f a1 : Word) (c : Channel) (al : Sys2Proof.Alignment) (pol : Polarity),
    f.toNat ≠ 0 → f.toNat ≤ s.params.sysClock.toNat →
    (s.At w f a1 [] → (s.chan c).en = true →
      Runs (.initc c al pol false 0) 2 s (s.disableRequested c w f a1 [s.srWord, channelBit c])) ∧
    (∀ sr v : Word, s.At w f a1 [sr, v] → sr.getLsbD c.val = true → (s.chan c).en = true →
      exec (.initc c al pol false 0) s = .next s) ∧
    (∀ k i P : Nat, k = (if (s.chan c).cmr.getLsbD 8 = true then 2 else 1) →
      FirstInRange (fun j => s.params.sysClock.toNat / (f.toNat * 2 ^ j * k)) 65535 i →
      P = s.params.sysClock.toNat / (f.toNat * 2 ^ i * k) → P ≠ 0 → (s.chan c).en = false →
        (s.At w f a1 [] →
          Runs (.initc c al pol false 0) 16 s
            { s with
              chans := s.chans.set c
                { s.chan c with
                  cprd := putField (s.chan c).cprd 0xFFFF (BitVec.ofNat 32 P) (s.params.shiftRule.pick 0 15)
                  cmr := initcMode s.params.shiftRule (s.chan c).cmr (BitVec.ofNat 32 i) al pol
                  cdty := putField (s.chan c).cdty 0xFFFF (a1 &&& 0xFFFF) (s.params.shiftRule.pick 0 15) }
              err := .ok, result := BitVec.ofNat 32 (i * 65536 + P), phase := .idle }) ∧
        (∀ sr v : Word, s.At w f a1 [sr, v] → sr.getLsbD c.val = true →
          Runs (.initc c al pol false 0) 17 s
            { s with
              chans := s.chans.set c
                { s.chan c with
                  cprd := putField (s.chan c).cprd 0xFFFF (BitVec.ofNat 32 P) (s.params.shiftRule.pick 0 15)
                  cmr := initcMode s.params.shiftRule (s.chan c).cmr (BitVec.ofNat 32 i) al pol
                  cdty := putField (s.chan c).cdty 0xFFFF (a1 &&& 0xFFFF) (s.params.shiftRule.pick 0 15)
                  en := true }
              draws := s.draws + 1
              err := .ok, result := BitVec.ofNat 32 (i * 65536 + P), phase := .idle }))

/-- 42_channel R164, shared-clock path with clock A or B: the clock and the selector are written, no period, then
alignment, polarity and duty cycle. An enabled channel's disable is requested first and waited for, and the channel is
enabled again at the end, which uses up one draw (log entry 6). -/
def Obligations.InitcSharedCompletes : Prop :=
  ∀ (s : State) (w f a1 : Word) (c : Channel) (al : Sys2Proof.Alignment) (pol : Polarity) (ck : BitVec 2),
    ck.toNat ≤ 1 → f.toNat ≠ 0 → f.toNat ≤ s.params.sysClock.toNat →
    (s.At w f a1 [] → (s.chan c).en = true →
      Runs (.initc c al pol true ck) 2 s (s.disableRequested c w f a1 [s.srWord, channelBit c])) ∧
    (∀ sr v : Word, s.At w f a1 [sr, v] → sr.getLsbD c.val = true → (s.chan c).en = true →
      exec (.initc c al pol true ck) s = .next s) ∧
    (∀ i d : Nat, FirstInRange (fun j => s.params.sysClock.toNat / 2 ^ j / f.toNat) 255 i →
      d = s.params.sysClock.toNat / 2 ^ i / f.toNat → (s.chan c).en = false →
        (s.At w f a1 [] →
          Runs (.initc c al pol true ck) 16 s
            { s with
              clk := setClockWord s.params.shiftRule ck s.clk (BitVec.ofNat 32 i) (BitVec.ofNat 32 d)
              chans := s.chans.set c
                { s.chan c with
                  cmr := initcMode s.params.shiftRule (s.chan c).cmr (BitVec.ofNat 32 (11 + ck.toNat)) al pol
                  cdty := putField (s.chan c).cdty 0xFFFF (a1 &&& 0xFFFF) (s.params.shiftRule.pick 0 15) }
              err := .ok, result := BitVec.ofNat 32 (i * 256 + d), phase := .idle }) ∧
        (∀ sr v : Word, s.At w f a1 [sr, v] → sr.getLsbD c.val = true →
          Runs (.initc c al pol true ck) 17 s
            { s with
              clk := setClockWord s.params.shiftRule ck s.clk (BitVec.ofNat 32 i) (BitVec.ofNat 32 d)
              chans := s.chans.set c
                { s.chan c with
                  cmr := initcMode s.params.shiftRule (s.chan c).cmr (BitVec.ofNat 32 (11 + ck.toNat)) al pol
                  cdty := putField (s.chan c).cdty 0xFFFF (a1 &&& 0xFFFF) (s.params.shiftRule.pick 0 15)
                  en := true }
              draws := s.draws + 1
              err := .ok, result := BitVec.ofNat 32 (i * 256 + d), phase := .idle }))

/-! ### The frequency resolver -/

/-- 43_resolver R204, R205, R210: SETFREQ writes the period, then the ladder index. An enabled channel's disable is
requested first and waited for, and the channel is enabled again at the end, which uses up one draw (log entry 6). -/
def Obligations.SetfreqCompletes : Prop :=
  ∀ (s : State) (w f a1 cmr : Word) (c : Channel) (k i P : Nat),
    f.toNat ≠ 0 → f.toNat ≤ s.params.sysClock.toNat → k = (if cmr.getLsbD 8 = true then 2 else 1) →
    FirstInRange (fun j => s.params.sysClock.toNat / (f.toNat * 2 ^ j * k)) 65535 i →
    P = s.params.sysClock.toNat / (f.toNat * 2 ^ i * k) → P ≠ 0 →
    (s.At w f a1 [] → (s.chan c).cmr = cmr → (s.chan c).en = false →
      Runs (.setfreq c) 8 s
        { s with
          chans := s.chans.set c
            { s.chan c with
              cprd := putField (s.chan c).cprd 0xFFFF (BitVec.ofNat 32 P) (s.params.shiftRule.pick 0 15)
              cmr := putField (s.chan c).cmr 0xF (BitVec.ofNat 32 i) (s.params.shiftRule.pick 0 3) }
          err := .ok, result := BitVec.ofNat 32 (i * 65536 + P), phase := .idle }) ∧
    (s.At w f a1 [] → (s.chan c).cmr = cmr → (s.chan c).en = true →
      Runs (.setfreq c) 3 s (s.disableRequested c w f a1 [cmr, s.srWord, channelBit c])) ∧
    (∀ sr v : Word, s.At w f a1 [cmr, sr, v] → sr.getLsbD c.val = true →
      ((s.chan c).en = true → exec (.setfreq c) s = .next s) ∧
      ((s.chan c).en = false →
        Runs (.setfreq c) 8 s
          { s with
            chans := s.chans.set c
              { s.chan c with
                cprd := putField (s.chan c).cprd 0xFFFF (BitVec.ofNat 32 P) (s.params.shiftRule.pick 0 15)
                cmr := putField (s.chan c).cmr 0xF (BitVec.ofNat 32 i) (s.params.shiftRule.pick 0 3)
                en := true }
            draws := s.draws + 1
            err := .ok, result := BitVec.ofNat 32 (i * 65536 + P), phase := .idle }))

/-- 43_resolver R206, R207, R210: SETCLKF writes clock A or B, then the selector that names it, and no period. An enabled
channel's disable is requested first and waited for, and the channel is enabled again at the end, which uses up one draw
(log entry 6). -/
def Obligations.SetclkfCompletes : Prop :=
  ∀ (s : State) (w f a1 : Word) (c : Channel) (ck : BitVec 2) (i d : Nat), ck.toNat ≤ 1 →
    f.toNat ≠ 0 → f.toNat ≤ s.params.sysClock.toNat →
    FirstInRange (fun j => s.params.sysClock.toNat / 2 ^ j / f.toNat) 255 i →
    d = s.params.sysClock.toNat / 2 ^ i / f.toNat →
    (s.At w f a1 [] → (s.chan c).en = false →
      Runs (.setclkf c ck) 8 s
        { s with
          clk := setClockWord s.params.shiftRule ck s.clk (BitVec.ofNat 32 i) (BitVec.ofNat 32 d)
          chans := s.chans.set c
            { s.chan c with
              cmr := putField (s.chan c).cmr 0xF (BitVec.ofNat 32 (11 + ck.toNat)) (s.params.shiftRule.pick 0 3) }
          err := .ok, result := BitVec.ofNat 32 (i * 256 + d), phase := .idle }) ∧
    (s.At w f a1 [] → (s.chan c).en = true →
      Runs (.setclkf c ck) 2 s (s.disableRequested c w f a1 [s.srWord, channelBit c])) ∧
    (∀ sr v : Word, s.At w f a1 [sr, v] → sr.getLsbD c.val = true →
      ((s.chan c).en = true → exec (.setclkf c ck) s = .next s) ∧
      ((s.chan c).en = false →
        Runs (.setclkf c ck) 9 s
          { s with
            clk := setClockWord s.params.shiftRule ck s.clk (BitVec.ofNat 32 i) (BitVec.ofNat 32 d)
            chans := s.chans.set c
              { s.chan c with
                cmr := putField (s.chan c).cmr 0xF (BitVec.ofNat 32 (11 + ck.toNat)) (s.params.shiftRule.pick 0 3)
                en := true }
            draws := s.draws + 1
            err := .ok, result := BitVec.ofNat 32 (i * 256 + d), phase := .idle }))

/-- 43_resolver R203 to R207, 42_channel R164, 60_exceptions R302: a bad frequency is refused before any access, by every
command that takes one. An exhausted search or a zero period ends SETFREQ behind the alignment read, an exhausted search
ends SETCLKF with no access; INITC makes the SR read, an enabled channel's disable and its wait (InitcLocalCompletes and
InitcSharedCompletes state them for every frequency that is not refused), then the alignment read, and the
channel is enabled again, which uses up one draw (log entry 6). On INITC's shared-clock path the alignment read is R302's,
which R206's pseudocode does not show (DEDUCED, log entry 19). No configuration register is written. -/
def Obligations.ResolverErrorsWriteNothing : Prop :=
  ∀ (s : State) (w f a1 : Word) (c : Channel) (al : Sys2Proof.Alignment) (pol : Polarity) (ck : BitVec 2) (k : Nat),
    k = (if (s.chan c).cmr.getLsbD 8 = true then 2 else 1) → ck.toNat ≤ 1 →
    (s.At w f a1 [] → f.toNat = 0 ∨ s.params.sysClock.toNat < f.toNat →
      exec (.setfreq c) s = .next { s with err := .freq, result := 0, phase := .idle } ∧
      exec (.setclkf c ck) s = .next { s with err := .freq, result := 0, phase := .idle } ∧
      exec (.initc c al pol false 0) s = .next { s with err := .freq, result := 0, phase := .idle } ∧
      exec (.initc c al pol true ck) s = .next { s with err := .freq, result := 0, phase := .idle }) ∧
    (f.toNat ≠ 0 → f.toNat ≤ s.params.sysClock.toNat →
      (∀ e : ErrCode,
        (e = .exhausted ∧ (∀ i, i ≤ 10 → 65535 < s.params.sysClock.toNat / (f.toNat * 2 ^ i * k)) ∨
          e = .zeroPeriod ∧ s.params.sysClock.toNat < f.toNat * k) →
        (s.At w f a1 [] → Runs (.setfreq c) 2 s { s with err := e, result := 0, phase := .idle }) ∧
        (s.At w f a1 [] → (s.chan c).en = false →
          Runs (.initc c al pol false 0) 3 s { s with err := e, result := 0, phase := .idle }) ∧
        (∀ sr v : Word, s.At w f a1 [sr, v] → sr.getLsbD c.val = true → (s.chan c).en = false →
          Runs (.initc c al pol false 0) 4 s
            { s with
              chans := s.chans.set c { s.chan c with en := true }
              draws := s.draws + 1
              err := e, result := 0, phase := .idle })) ∧
      ((∀ i, i ≤ 10 → 255 < s.params.sysClock.toNat / 2 ^ i / f.toNat) →
        (s.At w f a1 [] →
          exec (.setclkf c ck) s = .next { s with err := .exhausted, result := 0, phase := .idle }) ∧
        (s.At w f a1 [] → (s.chan c).en = false →
          Runs (.initc c al pol true ck) 3 s
            { s with err := .exhausted, result := 0, phase := .idle }) ∧
        (∀ sr v : Word, s.At w f a1 [sr, v] → sr.getLsbD c.val = true → (s.chan c).en = false →
          Runs (.initc c al pol true ck) 4 s
            { s with
              chans := s.chans.set c { s.chan c with en := true }
              draws := s.draws + 1
              err := .exhausted, result := 0, phase := .idle })))

/-- 43_resolver R201, R209 (b), (c), (e), (f): the local search for `1 <= f <= F`. -/
def Obligations.LocalSearchLaws : Prop :=
  ∀ (F f k : Nat), 1 ≤ f → f ≤ F → (k = 1 ∨ k = 2) →
    (∀ i P, localSearch F f k = some (i, P) ↔
      FirstInRange (fun j => F / (f * 2 ^ j * k)) 65535 i ∧ P = F / (f * 2 ^ i * k)) ∧
    (localSearch F f k = none ↔ f * k * 2 ^ 26 ≤ F) ∧
    (∀ i P, localSearch F f k = some (i, P) →
      (P = 0 ↔ F < f * k) ∧ (P = 0 → i = 0) ∧ (1 ≤ i → 32768 ≤ P) ∧
      (1 ≤ P → f * (2 ^ i * k * P) ≤ F ∧ F < 2 * f * (2 ^ i * k * P))) ∧
    (∀ i P, localSearch F f 1 = some (i, P) →
      localSearch F f 2 = if i = 0 then some (0, P / 2) else some (i - 1, P))

/-- 43_resolver R202, R209 (d), (e): the shared-clock search for `1 <= f <= F`. -/
def Obligations.SharedSearchLaws : Prop :=
  ∀ (F f : Nat), 1 ≤ f → f ≤ F →
    (∀ i d, sharedSearch F f = some (i, d) ↔
      FirstInRange (fun j => F / 2 ^ j / f) 255 i ∧ d = F / 2 ^ i / f) ∧
    (sharedSearch F f = none ↔ f * 2 ^ 18 ≤ F) ∧
    (∀ i d, sharedSearch F f = some (i, d) →
      1 ≤ d ∧ d ≤ 255 ∧ (1 ≤ i → 128 ≤ d) ∧ f * (2 ^ i * d) ≤ F ∧ F < 2 * f * (2 ^ i * d))

/-! ### Frames -/

/-- Every access of every command leaves the command interface's registers, the latched words, the parameters, the
script and the last host read as they are; RESULT and ERR change only when the command finishes (60_exceptions R301). -/
def Obligations.CommandsKeepTheInterface : Prop :=
  ∀ (i : Instr) (s t : State), exec i s = .next t →
    t.cmd = s.cmd ∧ t.arg0 = s.arg0 ∧ t.arg1 = s.arg1 ∧ t.params = s.params ∧ t.script = s.script ∧
    t.readback = s.readback ∧
    (t.phase = .idle ∨ t.result = s.result ∧ t.err = s.err) ∧
    (∀ l, s.phase = .running l →
      t.phase = .idle ∨ ∃ vs, t.phase = .running { l with replies := vs })

/-- ISEN, GETPER, GETALG, GETPRE, GETDTY and GETF change no register of the block, no hidden bit and no fault mark. -/
def Obligations.ReadersChangeNoRegister : Prop :=
  ∀ (i : Instr) (s t : State),
    ((∃ c, i = .isen c ∨ i = .getper c ∨ i = .getalg c ∨ i = .getpre c ∨ i = .getdty c) ∨ ∃ regw, i = .getf regw) →
    exec i s = .next t →
      t.clk = s.clk ∧ t.chans = s.chans ∧ t.fault = s.fault

/-- SETALG, SETPOL and SETPRE change CMRc only; SETPER only CPRDc, CPRDUPDc and its pending bit; SETDTY only CDTYc,
CDTYUPDc and its pending bit; of channel `c` only. -/
def Obligations.ChannelSettersFrame : Prop :=
  ∀ (c : Channel) (s t : State),
    (exec (.setalg c) s = .next t ∨ exec (.setpol c) s = .next t ∨ exec (.setpre c) s = .next t →
      t.clk = s.clk ∧ t.fault = s.fault ∧ t.draws = s.draws ∧
      (∀ d, d ≠ c → t.chan d = s.chan d) ∧ t.chan c = { s.chan c with cmr := (t.chan c).cmr }) ∧
    (exec (.setper c) s = .next t →
      t.clk = s.clk ∧ t.draws = s.draws ∧ (∀ d, d ≠ c → t.chan d = s.chan d) ∧
      t.chan c = { s.chan c with
        cprd := (t.chan c).cprd, cprdupd := (t.chan c).cprdupd, pendPrd := (t.chan c).pendPrd }) ∧
    (exec (.setdty c) s = .next t →
      t.clk = s.clk ∧ t.draws = s.draws ∧ (∀ d, d ≠ c → t.chan d = s.chan d) ∧
      t.chan c = { s.chan c with
        cdty := (t.chan c).cdty, cdtyupd := (t.chan c).cdtyupd, pendDty := (t.chan c).pendDty })

/-- SETCLK, CLKOFF and INITP change CLK only; ENABLE and DISABLE only the enabled and disable-request bits of the
channels their mask names. -/
def Obligations.ClockAndEnableFrames : Prop :=
  ∀ (i : Instr) (s t : State), exec i s = .next t →
    ((i = .initp ∨ ∃ ck, i = .setclk ck ∨ i = .clkoff ck) →
      t.chans = s.chans ∧ t.fault = s.fault ∧ t.draws = s.draws) ∧
    (∀ chm : BitVec 8, i = .enable chm ∨ i = .disable chm →
      t.clk = s.clk ∧ t.fault = s.fault ∧
      ∀ c : Channel, (chm.getLsbD c.val = false → t.chan c = s.chan c) ∧
        t.chan c = { s.chan c with en := (t.chan c).en, disreq := (t.chan c).disreq })

/-- SETFREQ, SETCLKF, INITC and RESETC change no other channel; SETFREQ and RESETC and INITC's local path leave CLK;
SETFREQ leaves the duty cycle and the dead time, SETCLKF everything of its channel but CMRc and the enabled and
disable-request bits, INITC the dead time. -/
def Obligations.OneChannelCommandsFrame : Prop :=
  ∀ (i : Instr) (c : Channel) (s t : State), exec i s = .next t →
    (i = .setfreq c ∨ i = .resetc c ∨ (∃ ck, i = .setclkf c ck) ∨ (∃ al pol u ck, i = .initc c al pol u ck) →
      ∀ d, d ≠ c → t.chan d = s.chan d) ∧
    (i = .setfreq c ∨ i = .resetc c ∨ (∃ al pol ck, i = .initc c al pol false ck) → t.clk = s.clk) ∧
    (i = .setfreq c → t.chan c = { t.chan c with
      cdty := (s.chan c).cdty, cdtyupd := (s.chan c).cdtyupd, dt := (s.chan c).dt, dtupd := (s.chan c).dtupd,
      pendDty := (s.chan c).pendDty, pendDt := (s.chan c).pendDt }) ∧
    ((∃ ck, i = .setclkf c ck) → t.chan c = { s.chan c with
      cmr := (t.chan c).cmr, en := (t.chan c).en, disreq := (t.chan c).disreq }) ∧
    ((∃ al pol u ck, i = .initc c al pol u ck) → t.chan c = { t.chan c with
      dt := (s.chan c).dt, dtupd := (s.chan c).dtupd, pendDt := (s.chan c).pendDt })

/-- SETF changes no stored register but the one it names, no enabled or disable-request bit unless it names ENA or DIS,
and no pending bit unless it names that shadow register; with an unmapped offset, none. -/
def Obligations.SetfFrame : Prop :=
  ∀ (regw : BitVec 10) (s t : State), exec (.setf regw) s = .next t →
    (∀ r, r.stores = true → regOfWord regw ≠ some r → t.regValue r = s.regValue r) ∧
    (regOfWord regw ≠ some .ena → regOfWord regw ≠ some .dis →
      ∀ c, (t.chan c).en = (s.chan c).en ∧ (t.chan c).disreq = (s.chan c).disreq) ∧
    (∀ c, (regOfWord regw ≠ some (.cprdupd c) → (t.chan c).pendPrd = (s.chan c).pendPrd) ∧
      (regOfWord regw ≠ some (.cdtyupd c) → (t.chan c).pendDty = (s.chan c).pendDty) ∧
      (regOfWord regw ≠ some (.dtupd c) → (t.chan c).pendDt = (s.chan c).pendDt))

/-! ### The whole machine -/

/-- 10_state R37: only a period boundary with a disable request clears an enabled bit, whatever agent steps. -/
def Obligations.OnlyBoundariesDisable : Prop :=
  ∀ (m : Move) (s t : State) (c : Channel), stepMove m s = .next t → (s.chan c).en = true → (t.chan c).en = false →
    m = .boundary c ∧ (s.chan c).disreq = true ∧ s.channelClock c ≠ .off

/-- 60_exceptions R311, 70_reset_and_hazards R412: a wait that names an enabled channel whose clock is off never ends,
under any schedule of the agents. -/
def Obligations.ClockOffHangNeverEnds : Prop :=
  ∀ (σ : Schedule) (s : State) (c : Channel), s.Hangs c → ∀ n, (runAt σ s n).Hangs c ∧ (runAt σ s n).busy = true

/-- 10_state R40, 70_reset_and_hazards R410: no command but SETF ever writes a direct register of an enabled channel,
wherever period boundaries and the host's passive accesses (60_exceptions R313) fall between its accesses. -/
def Obligations.OnlySetfFaultsOnDirectWrites : Prop :=
  ∀ (σ : Schedule) (s : State) (l : Latch) (i : Instr), s.fault = none → s.phase = .running l → l.replies = [] →
    decode l.cmd = .ok i → (∀ regw, i ≠ .setf regw) → HostPassive s.params σ →
      ∀ n, (runAt σ s n).fault = none

/-- 42_channel R164, 43_resolver R204 to R207: INITC, SETFREQ and SETCLKF neither leave a running channel stopped nor
start a stopped one, wherever period boundaries and the host's passive accesses (60_exceptions R313) fall and whether they
succeed or fail. -/
def Obligations.ResolverCommandsRestoreEnabledState : Prop :=
  ∀ (σ : Schedule) (s : State) (l : Latch) (i : Instr) (c : Channel), s.fault = none → s.phase = .running l →
    l.replies = [] → decode l.cmd = .ok i →
    (i = .setfreq c ∨ (∃ ck, i = .setclkf c ck) ∨ ∃ al pol u ck, i = .initc c al pol u ck) →
    (s.chan c).disreq = false → HostPassive s.params σ →
      ∀ n, (runAt σ s n).phase = .idle → ((runAt σ s n).chan c).en = (s.chan c).en

/-- 60_exceptions R311, 42_channel R152, R153: DISABLE's wait ends when every named channel still enabled has its request
pending and a fair boundary (10_state R46 (b)), in every weakly fair run in which the sequencer keeps stepping (the model's
premise, log entry 10) and the host makes passive accesses only, its polling of STATUS among them (60_exceptions R313,
70_reset_and_hazards R403). -/
def Obligations.FairRunsEndDisable : Prop :=
  ∀ (σ : Schedule) (s : State) (w a0 a1 v : Word) (chm : BitVec 8), s.fault = none → s.At w a0 a1 [v] →
    decode w = .ok (.disable chm) →
    (∀ c : Channel, chm.getLsbD c.val = true → (s.chan c).en = true →
      (s.chan c).disreq = true ∧ s.boundaryFair c = true) →
    HostPassive s.params σ → SequencerFair σ → WeaklyFair σ s →
      ∃ n, (runAt σ s n).phase = .idle ∧ (runAt σ s n).err = .ok ∧
        ∀ c : Channel, chm.getLsbD c.val = true → ((runAt σ s n).chan c).en = false
end

