-- ==== Sys2Proof/Laws/Operands.lean ====
section
/-! SUPPORT. The operand forms as arithmetic on words: the fields of an operand word as masks and shifts, the shift of
every named mask, and the word a field write makes with that shift. -/

namespace Sys2Proof.Machine

/-! ### Operand fields (30_encoding R89) -/

theorem argDivA_eq (a : Word) : argDivA a = a &&& 0xFF := by
  apply BitVec.eq_of_getLsbD_eq
  intro n hn
  simp only [argDivA, BitVec.getLsbD_setWidth, BitVec.getLsbD_extractLsb', BitVec.getLsbD_and]
  interval_cases n <;> simp

theorem argPreA_eq (a : Word) : argPreA a = a >>> 8 &&& 0xF := by
  apply BitVec.eq_of_getLsbD_eq
  intro n hn
  simp only [argPreA, BitVec.getLsbD_setWidth, BitVec.getLsbD_extractLsb', BitVec.getLsbD_and, BitVec.getLsbD_ushiftRight]
  interval_cases n <;> simp

theorem argDivB_eq (a : Word) : argDivB a = a >>> 16 &&& 0xFF := by
  apply BitVec.eq_of_getLsbD_eq
  intro n hn
  simp only [argDivB, BitVec.getLsbD_setWidth, BitVec.getLsbD_extractLsb', BitVec.getLsbD_and, BitVec.getLsbD_ushiftRight]
  interval_cases n <;> simp

theorem argPreB_eq (a : Word) : argPreB a = a >>> 24 &&& 0xF := by
  apply BitVec.eq_of_getLsbD_eq
  intro n hn
  simp only [argPreB, BitVec.getLsbD_setWidth, BitVec.getLsbD_extractLsb', BitVec.getLsbD_and, BitVec.getLsbD_ushiftRight]
  interval_cases n <;> simp

theorem argHalf_eq (a : Word) : argHalf a = a &&& 0xFFFF := by
  apply BitVec.eq_of_getLsbD_eq
  intro n hn
  simp only [argHalf, BitVec.getLsbD_setWidth, BitVec.getLsbD_extractLsb', BitVec.getLsbD_and]
  interval_cases n <;> simp

theorem argSelector_eq (a : Word) : argSelector a = a &&& 0xF := by
  apply BitVec.eq_of_getLsbD_eq
  intro n hn
  simp only [argSelector, BitVec.getLsbD_setWidth, BitVec.getLsbD_extractLsb', BitVec.getLsbD_and]
  interval_cases n <;> simp

theorem argBit_eq (a : Word) : argBit a = if a.getLsbD 0 = true then 1 else 0 := by
  apply BitVec.eq_of_getLsbD_eq
  intro n hn
  simp only [argBit, BitVec.getLsbD_setWidth, BitVec.getLsbD_extractLsb']
  by_cases h : n = 0
  · subst h
    cases hb : a.getLsbD 0 <;> simp
  · cases hb : a.getLsbD 0 <;> simp [h, BitVec.getLsbD_one]

/-! ### Shifts of the named masks (10_state R48, 40_bitfield R110), as the literals they abbreviate -/

@[simp] theorem shiftOf_diva (r : ShiftRule) : shiftOf r (0xFF#32) = r.pick 0 7 := by cases r <;> decide
@[simp] theorem shiftOf_prea (r : ShiftRule) : shiftOf r (0xF00#32) = r.pick 8 11 := by cases r <;> decide
@[simp] theorem shiftOf_divb (r : ShiftRule) : shiftOf r (0xFF0000#32) = r.pick 16 23 := by cases r <;> decide
@[simp] theorem shiftOf_preb (r : ShiftRule) : shiftOf r (0xF000000#32) = r.pick 24 27 := by cases r <;> decide
@[simp] theorem shiftOf_cpre (r : ShiftRule) : shiftOf r (0xF#32) = r.pick 0 3 := by cases r <;> decide
@[simp] theorem shiftOf_calg (r : ShiftRule) : shiftOf r (0x100#32) = 8 := by cases r <;> decide
@[simp] theorem shiftOf_cpol (r : ShiftRule) : shiftOf r (0x200#32) = 9 := by cases r <;> decide
@[simp] theorem shiftOf_cprd (r : ShiftRule) : shiftOf r (0xFFFF#32) = r.pick 0 15 := by cases r <;> decide
@[simp] theorem shiftOf_full (r : ShiftRule) : shiftOf r (0xFFFFFFFF#32) = r.pick 0 31 := by cases r <;> decide

/-- Writing 0 under the full mask leaves 0, under either rule (40_bitfield R111). -/
@[simp] theorem insertField_full_zero (r : ShiftRule) (old : Word) : insertField r old (0xFFFFFFFF#32) 0#32 = 0#32 := by
  simp [insertField]

end Sys2Proof.Machine
end

