-- ==== Sys2Proof/Laws/State.lean ====
section
/-! SUPPORT. The small lemmas of the state updates: one per field per update, true by rfl. -/

namespace Sys2Proof.Machine

@[simp] theorem State.setClk_clk (s : State) (v : Word) : (s.setClk v).clk = v := rfl
@[simp] theorem State.setClk_chans (s : State) (v : Word) : (s.setClk v).chans = s.chans := rfl
@[simp] theorem State.setClk_cmd (s : State) (v : Word) : (s.setClk v).cmd = s.cmd := rfl
@[simp] theorem State.setClk_arg0 (s : State) (v : Word) : (s.setClk v).arg0 = s.arg0 := rfl
@[simp] theorem State.setClk_arg1 (s : State) (v : Word) : (s.setClk v).arg1 = s.arg1 := rfl
@[simp] theorem State.setClk_result (s : State) (v : Word) : (s.setClk v).result = s.result := rfl
@[simp] theorem State.setClk_err (s : State) (v : Word) : (s.setClk v).err = s.err := rfl
@[simp] theorem State.setClk_phase (s : State) (v : Word) : (s.setClk v).phase = s.phase := rfl
@[simp] theorem State.setClk_fault (s : State) (v : Word) : (s.setClk v).fault = s.fault := rfl
@[simp] theorem State.setClk_params (s : State) (v : Word) : (s.setClk v).params = s.params := rfl
@[simp] theorem State.setClk_script (s : State) (v : Word) : (s.setClk v).script = s.script := rfl
@[simp] theorem State.setClk_draws (s : State) (v : Word) : (s.setClk v).draws = s.draws := rfl
@[simp] theorem State.setClk_readback (s : State) (v : Word) : (s.setClk v).readback = s.readback := rfl
@[simp] theorem State.setClk_chan (s : State) (v : Word) (d : Channel) : (s.setClk v).chan d = s.chan d := rfl
@[simp] theorem State.setClk_srWord (s : State) (v : Word) : (s.setClk v).srWord = s.srWord := rfl

@[simp] theorem State.setChan_clk (s : State) (c : Channel) (ch : Chan) : (s.setChan c ch).clk = s.clk := rfl
@[simp] theorem State.setChan_chans (s : State) (c : Channel) (ch : Chan) : (s.setChan c ch).chans = s.chans.set c ch := rfl
@[simp] theorem State.setChan_cmd (s : State) (c : Channel) (ch : Chan) : (s.setChan c ch).cmd = s.cmd := rfl
@[simp] theorem State.setChan_arg0 (s : State) (c : Channel) (ch : Chan) : (s.setChan c ch).arg0 = s.arg0 := rfl
@[simp] theorem State.setChan_arg1 (s : State) (c : Channel) (ch : Chan) : (s.setChan c ch).arg1 = s.arg1 := rfl
@[simp] theorem State.setChan_result (s : State) (c : Channel) (ch : Chan) : (s.setChan c ch).result = s.result := rfl
@[simp] theorem State.setChan_err (s : State) (c : Channel) (ch : Chan) : (s.setChan c ch).err = s.err := rfl
@[simp] theorem State.setChan_phase (s : State) (c : Channel) (ch : Chan) : (s.setChan c ch).phase = s.phase := rfl
@[simp] theorem State.setChan_fault (s : State) (c : Channel) (ch : Chan) : (s.setChan c ch).fault = s.fault := rfl
@[simp] theorem State.setChan_params (s : State) (c : Channel) (ch : Chan) : (s.setChan c ch).params = s.params := rfl
@[simp] theorem State.setChan_script (s : State) (c : Channel) (ch : Chan) : (s.setChan c ch).script = s.script := rfl
@[simp] theorem State.setChan_draws (s : State) (c : Channel) (ch : Chan) : (s.setChan c ch).draws = s.draws := rfl
@[simp] theorem State.setChan_readback (s : State) (c : Channel) (ch : Chan) : (s.setChan c ch).readback = s.readback := rfl

@[simp] theorem State.mapChans_clk (s : State) (f : Channel → Chan → Chan) : (s.mapChans f).clk = s.clk := rfl
@[simp] theorem State.mapChans_chans (s : State) (f : Channel → Chan → Chan) : (s.mapChans f).chans = Vector.ofFn fun c => f c (s.chan c) := rfl
@[simp] theorem State.mapChans_cmd (s : State) (f : Channel → Chan → Chan) : (s.mapChans f).cmd = s.cmd := rfl
@[simp] theorem State.mapChans_arg0 (s : State) (f : Channel → Chan → Chan) : (s.mapChans f).arg0 = s.arg0 := rfl
@[simp] theorem State.mapChans_arg1 (s : State) (f : Channel → Chan → Chan) : (s.mapChans f).arg1 = s.arg1 := rfl
@[simp] theorem State.mapChans_result (s : State) (f : Channel → Chan → Chan) : (s.mapChans f).result = s.result := rfl
@[simp] theorem State.mapChans_err (s : State) (f : Channel → Chan → Chan) : (s.mapChans f).err = s.err := rfl
@[simp] theorem State.mapChans_phase (s : State) (f : Channel → Chan → Chan) : (s.mapChans f).phase = s.phase := rfl
@[simp] theorem State.mapChans_fault (s : State) (f : Channel → Chan → Chan) : (s.mapChans f).fault = s.fault := rfl
@[simp] theorem State.mapChans_params (s : State) (f : Channel → Chan → Chan) : (s.mapChans f).params = s.params := rfl
@[simp] theorem State.mapChans_script (s : State) (f : Channel → Chan → Chan) : (s.mapChans f).script = s.script := rfl
@[simp] theorem State.mapChans_draws (s : State) (f : Channel → Chan → Chan) : (s.mapChans f).draws = s.draws := rfl
@[simp] theorem State.mapChans_readback (s : State) (f : Channel → Chan → Chan) : (s.mapChans f).readback = s.readback := rfl

@[simp] theorem State.tick_clk (s : State) : (s.tick).clk = s.clk := rfl
@[simp] theorem State.tick_chans (s : State) : (s.tick).chans = s.chans := rfl
@[simp] theorem State.tick_cmd (s : State) : (s.tick).cmd = s.cmd := rfl
@[simp] theorem State.tick_arg0 (s : State) : (s.tick).arg0 = s.arg0 := rfl
@[simp] theorem State.tick_arg1 (s : State) : (s.tick).arg1 = s.arg1 := rfl
@[simp] theorem State.tick_result (s : State) : (s.tick).result = s.result := rfl
@[simp] theorem State.tick_err (s : State) : (s.tick).err = s.err := rfl
@[simp] theorem State.tick_phase (s : State) : (s.tick).phase = s.phase := rfl
@[simp] theorem State.tick_fault (s : State) : (s.tick).fault = s.fault := rfl
@[simp] theorem State.tick_params (s : State) : (s.tick).params = s.params := rfl
@[simp] theorem State.tick_script (s : State) : (s.tick).script = s.script := rfl
@[simp] theorem State.tick_draws (s : State) : (s.tick).draws = s.draws + 1 := rfl
@[simp] theorem State.tick_readback (s : State) : (s.tick).readback = s.readback := rfl
@[simp] theorem State.tick_chan (s : State) (d : Channel) : (s.tick).chan d = s.chan d := rfl
@[simp] theorem State.tick_srWord (s : State) : (s.tick).srWord = s.srWord := rfl

@[simp] theorem State.finish_clk (s : State) (e : ErrCode) (r : Word) : (s.finish e r).clk = s.clk := rfl
@[simp] theorem State.finish_chans (s : State) (e : ErrCode) (r : Word) : (s.finish e r).chans = s.chans := rfl
@[simp] theorem State.finish_cmd (s : State) (e : ErrCode) (r : Word) : (s.finish e r).cmd = s.cmd := rfl
@[simp] theorem State.finish_arg0 (s : State) (e : ErrCode) (r : Word) : (s.finish e r).arg0 = s.arg0 := rfl
@[simp] theorem State.finish_arg1 (s : State) (e : ErrCode) (r : Word) : (s.finish e r).arg1 = s.arg1 := rfl
@[simp] theorem State.finish_result (s : State) (e : ErrCode) (r : Word) : (s.finish e r).result = r := rfl
@[simp] theorem State.finish_err (s : State) (e : ErrCode) (r : Word) : (s.finish e r).err = e := rfl
@[simp] theorem State.finish_phase (s : State) (e : ErrCode) (r : Word) : (s.finish e r).phase = .idle := rfl
@[simp] theorem State.finish_fault (s : State) (e : ErrCode) (r : Word) : (s.finish e r).fault = s.fault := rfl
@[simp] theorem State.finish_params (s : State) (e : ErrCode) (r : Word) : (s.finish e r).params = s.params := rfl
@[simp] theorem State.finish_script (s : State) (e : ErrCode) (r : Word) : (s.finish e r).script = s.script := rfl
@[simp] theorem State.finish_draws (s : State) (e : ErrCode) (r : Word) : (s.finish e r).draws = s.draws := rfl
@[simp] theorem State.finish_readback (s : State) (e : ErrCode) (r : Word) : (s.finish e r).readback = s.readback := rfl
@[simp] theorem State.finish_chan (s : State) (e : ErrCode) (r : Word) (d : Channel) : (s.finish e r).chan d = s.chan d := rfl
@[simp] theorem State.finish_srWord (s : State) (e : ErrCode) (r : Word) : (s.finish e r).srWord = s.srWord := rfl

@[simp] theorem State.reply_clk (s : State) (v : Word) : (s.reply v).clk = s.clk := rfl
@[simp] theorem State.reply_chans (s : State) (v : Word) : (s.reply v).chans = s.chans := rfl
@[simp] theorem State.reply_cmd (s : State) (v : Word) : (s.reply v).cmd = s.cmd := rfl
@[simp] theorem State.reply_arg0 (s : State) (v : Word) : (s.reply v).arg0 = s.arg0 := rfl
@[simp] theorem State.reply_arg1 (s : State) (v : Word) : (s.reply v).arg1 = s.arg1 := rfl
@[simp] theorem State.reply_result (s : State) (v : Word) : (s.reply v).result = s.result := rfl
@[simp] theorem State.reply_err (s : State) (v : Word) : (s.reply v).err = s.err := rfl
@[simp] theorem State.reply_fault (s : State) (v : Word) : (s.reply v).fault = s.fault := rfl
@[simp] theorem State.reply_params (s : State) (v : Word) : (s.reply v).params = s.params := rfl
@[simp] theorem State.reply_script (s : State) (v : Word) : (s.reply v).script = s.script := rfl
@[simp] theorem State.reply_draws (s : State) (v : Word) : (s.reply v).draws = s.draws := rfl
@[simp] theorem State.reply_readback (s : State) (v : Word) : (s.reply v).readback = s.readback := rfl
@[simp] theorem State.reply_chan (s : State) (v : Word) (d : Channel) : (s.reply v).chan d = s.chan d := rfl
@[simp] theorem State.reply_srWord (s : State) (v : Word) : (s.reply v).srWord = s.srWord := rfl

@[simp] theorem State.raise_clk (s : State) (f : Fault) : (s.raise f).clk = s.clk := rfl
@[simp] theorem State.raise_chans (s : State) (f : Fault) : (s.raise f).chans = s.chans := rfl
@[simp] theorem State.raise_cmd (s : State) (f : Fault) : (s.raise f).cmd = s.cmd := rfl
@[simp] theorem State.raise_arg0 (s : State) (f : Fault) : (s.raise f).arg0 = s.arg0 := rfl
@[simp] theorem State.raise_arg1 (s : State) (f : Fault) : (s.raise f).arg1 = s.arg1 := rfl
@[simp] theorem State.raise_result (s : State) (f : Fault) : (s.raise f).result = s.result := rfl
@[simp] theorem State.raise_err (s : State) (f : Fault) : (s.raise f).err = s.err := rfl
@[simp] theorem State.raise_phase (s : State) (f : Fault) : (s.raise f).phase = s.phase := rfl
@[simp] theorem State.raise_params (s : State) (f : Fault) : (s.raise f).params = s.params := rfl
@[simp] theorem State.raise_script (s : State) (f : Fault) : (s.raise f).script = s.script := rfl
@[simp] theorem State.raise_draws (s : State) (f : Fault) : (s.raise f).draws = s.draws := rfl
@[simp] theorem State.raise_readback (s : State) (f : Fault) : (s.raise f).readback = s.readback := rfl
@[simp] theorem State.raise_chan (s : State) (f : Fault) (d : Channel) : (s.raise f).chan d = s.chan d := rfl
@[simp] theorem State.raise_srWord (s : State) (f : Fault) : (s.raise f).srWord = s.srWord := rfl

@[simp] theorem State.startCommand_clk (s : State) (w : Word) : (s.startCommand w).clk = s.clk := rfl
@[simp] theorem State.startCommand_chans (s : State) (w : Word) : (s.startCommand w).chans = s.chans := rfl
@[simp] theorem State.startCommand_cmd (s : State) (w : Word) : (s.startCommand w).cmd = w := rfl
@[simp] theorem State.startCommand_arg0 (s : State) (w : Word) : (s.startCommand w).arg0 = s.arg0 := rfl
@[simp] theorem State.startCommand_arg1 (s : State) (w : Word) : (s.startCommand w).arg1 = s.arg1 := rfl
@[simp] theorem State.startCommand_result (s : State) (w : Word) : (s.startCommand w).result = s.result := rfl
@[simp] theorem State.startCommand_err (s : State) (w : Word) : (s.startCommand w).err = s.err := rfl
@[simp] theorem State.startCommand_phase (s : State) (w : Word) : (s.startCommand w).phase = .running { cmd := w, arg0 := s.arg0, arg1 := s.arg1, replies := [] } := rfl
@[simp] theorem State.startCommand_fault (s : State) (w : Word) : (s.startCommand w).fault = s.fault := rfl
@[simp] theorem State.startCommand_params (s : State) (w : Word) : (s.startCommand w).params = s.params := rfl
@[simp] theorem State.startCommand_script (s : State) (w : Word) : (s.startCommand w).script = s.script := rfl
@[simp] theorem State.startCommand_draws (s : State) (w : Word) : (s.startCommand w).draws = s.draws := rfl
@[simp] theorem State.startCommand_readback (s : State) (w : Word) : (s.startCommand w).readback = s.readback := rfl
@[simp] theorem State.startCommand_chan (s : State) (w : Word) (d : Channel) : (s.startCommand w).chan d = s.chan d := rfl
@[simp] theorem State.startCommand_srWord (s : State) (w : Word) : (s.startCommand w).srWord = s.srWord := rfl

@[simp] theorem State.pollStatus_clk (s : State) : (s.pollStatus).clk = s.clk := rfl
@[simp] theorem State.pollStatus_chans (s : State) : (s.pollStatus).chans = s.chans := rfl
@[simp] theorem State.pollStatus_cmd (s : State) : (s.pollStatus).cmd = s.cmd := rfl
@[simp] theorem State.pollStatus_arg0 (s : State) : (s.pollStatus).arg0 = s.arg0 := rfl
@[simp] theorem State.pollStatus_arg1 (s : State) : (s.pollStatus).arg1 = s.arg1 := rfl
@[simp] theorem State.pollStatus_result (s : State) : (s.pollStatus).result = s.result := rfl
@[simp] theorem State.pollStatus_err (s : State) : (s.pollStatus).err = s.err := rfl
@[simp] theorem State.pollStatus_phase (s : State) : (s.pollStatus).phase = s.phase := rfl
@[simp] theorem State.pollStatus_fault (s : State) : (s.pollStatus).fault = s.fault := rfl
@[simp] theorem State.pollStatus_params (s : State) : (s.pollStatus).params = s.params := rfl
@[simp] theorem State.pollStatus_script (s : State) : (s.pollStatus).script = s.script := rfl
@[simp] theorem State.pollStatus_draws (s : State) : (s.pollStatus).draws = s.draws := rfl
@[simp] theorem State.pollStatus_readback (s : State) : (s.pollStatus).readback = some s.statusWord := rfl
@[simp] theorem State.pollStatus_chan (s : State) (d : Channel) : (s.pollStatus).chan d = s.chan d := rfl
@[simp] theorem State.pollStatus_srWord (s : State) : (s.pollStatus).srWord = s.srWord := rfl

/-- A raised fault is the mark of a state that had none (60_exceptions R303). -/
theorem State.raise_fault_of_none {s : State} (h : s.fault = none) (f : Fault) : (s.raise f).fault = some f := by
  simp [State.raise, h]

/-- The mark never changes once set (60_exceptions R303). -/
theorem State.raise_fault_of_some {s : State} {g : Fault} (h : s.fault = some g) (f : Fault) :
    (s.raise f).fault = some g := by
  simp [State.raise, h]

/-- A reply is added behind the replies of a running command (10_state R43). -/
theorem State.reply_phase_of_running {s : State} {l : Latch} (h : s.phase = .running l) (v : Word) :
    (s.reply v).phase = .running { l with replies := l.replies ++ [v] } := by
  simp [State.reply, h]

/-- An idle sequencer takes no reply. -/
theorem State.reply_phase_of_idle {s : State} (h : s.phase = .idle) (v : Word) : (s.reply v).phase = .idle := by
  simp [State.reply, h]

@[simp] theorem State.setChan_chan_self (s : State) (c : Channel) (ch : Chan) : (s.setChan c ch).chan c = ch := by
  simp [State.setChan, State.chan]

theorem State.setChan_chan_of_ne (s : State) (c d : Channel) (ch : Chan) (h : d ≠ c) :
    (s.setChan c ch).chan d = s.chan d := by
  have : c.val ≠ d.val := fun e => h (Fin.ext e.symm)
  simp [State.setChan, State.chan, this]

/-- Of two updates of one channel the second stays. -/
@[simp] theorem State.setChan_setChan (s : State) (c : Channel) (x y : Chan) :
    (s.setChan c x).setChan c y = s.setChan c y := by
  simp [State.setChan]

/-- Of two updates of CLK the second stays. -/
@[simp] theorem State.setClk_setClk (s : State) (v w : Word) : (s.setClk v).setClk w = s.setClk w := rfl

/-- CLK and the channels are apart. -/
@[simp] theorem State.setChan_setClk (s : State) (c : Channel) (x : Chan) (v : Word) :
    (s.setChan c x).setClk v = (s.setClk v).setChan c x := rfl

@[simp] theorem State.mapChans_chan (s : State) (f : Channel → Chan → Chan) (c : Channel) :
    (s.mapChans f).chan c = f c (s.chan c) := by
  simp [State.mapChans, State.chan]

/-- Two states' channels agree when every channel does. -/
theorem State.chans_ext {s t : State} (h : ∀ c, s.chan c = t.chan c) : s.chans = t.chans := by
  apply Vector.ext
  intro i hi
  exact h ⟨i, hi⟩

@[simp] theorem State.reset_chan (c : Channel) : State.reset.chan c = Chan.reset := by
  simp [State.reset, State.chan]

end Sys2Proof.Machine
end

