-- ==== Sys2Proof/Laws/Ops.lean ====
section
/-! SUPPORT. What the shared operations do, said once: the status words, register reads and writes, and the
fields no access touches. -/

namespace Sys2Proof.Machine

/-! ### Status words -/

theorem getLsbD_ite_zero (b : Bool) (x : Word) (n : Nat) :
    (if b = true then x else (0 : Word)).getLsbD n = (b && x.getLsbD n) := by
  cases b <;> simp

@[simp] theorem chBit_channelBit (c d : Channel) : chBit (channelBit c) d = decide (d = c) := by
  revert c d; decide

@[simp] theorem chBit_maskWord (chm : BitVec 8) (c : Channel) : chBit (maskWord chm) c = chm.getLsbD c.val := by
  have := c.isLt
  simp [chBit, maskWord]
  omega

/-- Bit `c` of a flag word. -/
@[simp] theorem chBit_flagWord (f : Channel → Bool) (c : Channel) : chBit (flagWord f) c = f c := by
  have hb : ∀ d : Channel, (channelBit d).getLsbD c.val = decide (c = d) := fun d => chBit_channelBit d c
  have hz : (0 : Word).getLsbD c.val = false := BitVec.getLsbD_zero
  simp only [chBit, flagWord, List.map_cons, List.map_nil, List.foldr_cons, List.foldr_nil, BitVec.getLsbD_or,
    getLsbD_ite_zero, hb, hz]
  fin_cases c <;> simp

/-- A flag word has no bit above 7. -/
theorem flagWord_getLsbD_high (f : Channel → Bool) (n : Nat) (h : 8 ≤ n) : (flagWord f).getLsbD n = false := by
  have hc : ∀ c : Channel, (channelBit c).getLsbD n = false := by
    intro c
    have := c.isLt
    simp [channelBit]
    omega
  have hz : (0 : Word).getLsbD n = false := BitVec.getLsbD_zero
  simp only [flagWord, List.map_cons, List.map_nil, List.foldr_cons, List.foldr_nil, BitVec.getLsbD_or,
    getLsbD_ite_zero, hc, hz, Bool.and_false, Bool.or_false]

/-- Bit `c` of SR is `en[c]` (10_state R26). -/
@[simp] theorem chBit_srWord (s : State) (c : Channel) : chBit s.srWord c = (s.chan c).en := by
  simp [State.srWord]

/-- The disable wait's condition (42_channel R152): every named channel is disabled. -/
theorem srWord_and_eq_zero_iff (s : State) (m : Word) :
    s.srWord &&& m = 0 ↔ ∀ c, chBit m c = true → (s.chan c).en = false := by
  constructor
  · intro h c hm
    have hb := congrArg (fun w => BitVec.getLsbD w c.val) h
    have hs := chBit_srWord s c
    simp only [chBit] at hm hs
    simp [hm, hs] at hb
    exact hb
  · intro h
    apply BitVec.eq_of_getLsbD_eq
    intro n hn
    by_cases h8 : n < 8
    · have hs := chBit_srWord s ⟨n, h8⟩
      have := h ⟨n, h8⟩
      simp only [chBit] at hs this
      simp [hs]
      cases hm : m.getLsbD n <;> simp_all
    · simp [State.srWord, flagWord_getLsbD_high _ n (by omega)]

/-! ### What no register access touches -/

theorem State.afterRead_draws_or (s : State) (r : Reg) : s.afterRead r = s ∨ s.afterRead r = s.tick := by
  cases r <;> simp [State.afterRead]

/-- Reading a storage register or SR leaves the state as it is (20_memory R64). -/
theorem State.afterRead_eq (s : State) (r : Reg) (h : r ≠ .ena ∧ r ≠ .dis) : s.afterRead r = s := by
  cases r <;> simp_all [State.afterRead]

/-- A register read changes the draw counter at most. -/
theorem State.afterRead_frame (s : State) (r : Reg) :
    (s.afterRead r).clk = s.clk ∧ (s.afterRead r).chans = s.chans ∧ (s.afterRead r).cmd = s.cmd ∧
    (s.afterRead r).arg0 = s.arg0 ∧ (s.afterRead r).arg1 = s.arg1 ∧ (s.afterRead r).result = s.result ∧
    (s.afterRead r).err = s.err ∧ (s.afterRead r).phase = s.phase ∧ (s.afterRead r).fault = s.fault ∧
    (s.afterRead r).params = s.params ∧ (s.afterRead r).script = s.script ∧
    (s.afterRead r).readback = s.readback := by
  cases r <;> simp [State.afterRead]

/-- A register write changes the registers, the hidden bits and the draw counter at most. -/
theorem State.storeReg_frame (s : State) (v : Word) (r : Reg) :
    (s.storeReg v r).cmd = s.cmd ∧ (s.storeReg v r).arg0 = s.arg0 ∧ (s.storeReg v r).arg1 = s.arg1 ∧
    (s.storeReg v r).result = s.result ∧ (s.storeReg v r).err = s.err ∧ (s.storeReg v r).phase = s.phase ∧
    (s.storeReg v r).fault = s.fault ∧ (s.storeReg v r).params = s.params ∧ (s.storeReg v r).script = s.script ∧
    (s.storeReg v r).readback = s.readback := by
  cases r <;> simp [State.storeReg, State.writeEna, State.writeDis]

/-- A write to a register of another channel, or of none, leaves channel `c`; ENA and DIS act on the channels they
name. -/
theorem State.storeReg_clk (s : State) (v : Word) (r : Reg) (h : r ≠ .clk) : (s.storeReg v r).clk = s.clk := by
  cases r <;> simp_all [State.storeReg, State.writeEna, State.writeDis]

@[simp] theorem State.writeEna_chan (s : State) (v : Word) (c : Channel) :
    (s.writeEna v).chan c = (s.chan c).enableAct (chBit v c) (chBit s.drawn c) := by
  simp [State.writeEna]

@[simp] theorem State.writeDis_chan (s : State) (v : Word) (c : Channel) :
    (s.writeDis v).chan c = (s.chan c).disableAct (chBit v c) := by
  simp [State.writeDis]

/-- A write of a mask that does not name a channel to ENA leaves it (10_state R24). -/
@[simp] theorem Chan.enableAct_false (ch : Chan) (b : Bool) : ch.enableAct false b = ch := rfl

/-- A write of a mask that does not name a channel to DIS leaves it (10_state R25). -/
@[simp] theorem Chan.disableAct_false (ch : Chan) : ch.disableAct false = ch := rfl

/-- DIS never disables by itself (10_state R25). -/
@[simp] theorem Chan.disableAct_en (ch : Chan) (b : Bool) : (ch.disableAct b).en = ch.en := by
  unfold Chan.disableAct; split <;> rfl

/-- ENA enables the channels it names (10_state R24). -/
@[simp] theorem Chan.enableAct_en (ch : Chan) (b d : Bool) : (ch.enableAct b d).en = (ch.en || b) := by
  unfold Chan.enableAct
  split_ifs <;> simp_all

/-! ### The hidden-state invariant (10_state R39) -/

theorem Chan.HiddenOk.atBoundary {ch : Chan} (h : ch.HiddenOk) : ch.atBoundary.HiddenOk := by
  rcases h with h | ⟨h1, h2, h3, h4⟩
  · simp only [Chan.HiddenOk, Chan.atBoundary, Chan.applyDisable, Chan.transferDt, Chan.transferDty, Chan.transferPrd]
    split_ifs <;> simp_all
  · simp [Chan.HiddenOk, Chan.atBoundary, Chan.applyDisable, Chan.transferDt, Chan.transferDty, Chan.transferPrd, *]

theorem Chan.HiddenOk.enableAct {ch : Chan} (h : ch.HiddenOk) (b d : Bool) : (ch.enableAct b d).HiddenOk := by
  unfold Chan.HiddenOk Chan.enableAct at *
  split_ifs <;> simp_all

theorem Chan.HiddenOk.disableAct {ch : Chan} (h : ch.HiddenOk) (b : Bool) : (ch.disableAct b).HiddenOk := by
  unfold Chan.HiddenOk Chan.disableAct at *
  split_ifs <;> simp_all

/-- Every register write keeps 10_state R39. -/
theorem State.Inv.storeReg {s : State} (h : s.Inv) (v : Word) (r : Reg) : (s.storeReg v r).Inv := by
  intro d
  have hd := h d
  cases r with
  | ena => simpa [State.storeReg] using hd.enableAct _ _
  | dis => simpa [State.storeReg] using hd.disableAct _
  | clk => exact hd
  | sr => exact hd
  | _ c =>
    simp only [State.storeReg]
    by_cases e : d = c
    · subst e
      rw [State.setChan_chan_self]
      simp only [Chan.HiddenOk, Chan.writePrdShadow, Chan.writeDtyShadow, Chan.writeDtShadow] at *
      rcases hd with hd | hd <;> simp_all
    · rw [State.setChan_chan_of_ne _ _ _ _ e]
      exact hd

/-! ### The period boundary (10_state R45), field by field -/

/-- A boundary leaves CMRc and the shadow registers and clears the pending flags and the request. -/
theorem Chan.atBoundary_frame (ch : Chan) :
    ch.atBoundary.cmr = ch.cmr ∧ ch.atBoundary.cdtyupd = ch.cdtyupd ∧ ch.atBoundary.cprdupd = ch.cprdupd ∧
    ch.atBoundary.dtupd = ch.dtupd ∧ ch.atBoundary.disreq = false ∧ ch.atBoundary.pendPrd = false ∧
    ch.atBoundary.pendDty = false ∧ ch.atBoundary.pendDt = false := by
  obtain ⟨_, _, _, _, _, _, _, en, dr, p, d, t⟩ := ch
  cases en <;> cases dr <;> cases p <;> cases d <;> cases t <;> exact ⟨rfl, rfl, rfl, rfl, rfl, rfl, rfl, rfl⟩

@[simp] theorem Chan.atBoundary_cprd (ch : Chan) : ch.atBoundary.cprd = if ch.pendPrd then ch.cprdupd else ch.cprd := by
  obtain ⟨_, _, _, _, _, _, _, en, dr, p, d, t⟩ := ch
  cases en <;> cases dr <;> cases p <;> cases d <;> cases t <;> rfl

@[simp] theorem Chan.atBoundary_cdty (ch : Chan) : ch.atBoundary.cdty = if ch.pendDty then ch.cdtyupd else ch.cdty := by
  obtain ⟨_, _, _, _, _, _, _, en, dr, p, d, t⟩ := ch
  cases en <;> cases dr <;> cases p <;> cases d <;> cases t <;> rfl

@[simp] theorem Chan.atBoundary_dt (ch : Chan) : ch.atBoundary.dt = if ch.pendDt then ch.dtupd else ch.dt := by
  obtain ⟨_, _, _, _, _, _, _, en, dr, p, d, t⟩ := ch
  cases en <;> cases dr <;> cases p <;> cases d <;> cases t <;> rfl

@[simp] theorem Chan.atBoundary_en (ch : Chan) : ch.atBoundary.en = (ch.en && !ch.disreq) := by
  obtain ⟨_, _, _, _, _, _, _, en, dr, p, d, t⟩ := ch
  cases en <;> cases dr <;> cases p <;> cases d <;> cases t <;> rfl

/-! ### ENA and DIS on one channel -/

/-- The DIS write of an enabled channel requests its disable and leaves every other channel (10_state R25). -/
theorem State.writeDis_channelBit {s : State} {c : Channel} (h : (s.chan c).en = true) :
    s.writeDis (channelBit c) = s.setChan c { s.chan c with disreq := true } := by
  have hc : (s.writeDis (channelBit c)).chans = (s.setChan c { s.chan c with disreq := true }).chans := by
    apply State.chans_ext
    intro d
    rw [State.writeDis_chan, chBit_channelBit]
    by_cases e : d = c
    · subst e
      rw [State.setChan_chan_self]
      simp [Chan.disableAct, h]
    · rw [State.setChan_chan_of_ne _ _ _ _ e]
      simp [e]
  simp only [State.writeDis, State.mapChans, State.setChan] at hc ⊢
  rw [hc]

/-- The ENA write of a disabled channel enables it, leaves every other channel and uses up a draw (10_state R24). -/
theorem State.writeEna_channelBit {s : State} {c : Channel} (h : (s.chan c).en = false) :
    s.writeEna (channelBit c) = (s.setChan c { s.chan c with en := true }).tick := by
  have hc : (s.writeEna (channelBit c)).chans = (s.setChan c { s.chan c with en := true }).chans := by
    apply State.chans_ext
    intro d
    rw [State.writeEna_chan, chBit_channelBit]
    by_cases e : d = c
    · subst e
      rw [State.setChan_chan_self]
      simp [Chan.enableAct, h]
    · rw [State.setChan_chan_of_ne _ _ _ _ e]
      simp [e]
  simp only [State.writeEna, State.mapChans, State.setChan, State.tick] at hc ⊢
  rw [hc]

/-! ### The host's passive accesses (60_exceptions R313) -/

/-- A passive access changes the last word read at most. -/
theorem State.hostAccess_of_passive {s : State} {a : HostAccess} (h : a.Passive s.params) :
    ∃ x, s.hostAccess a = { s with readback := x } := by
  have hsub : ∀ off : Word, s.params.ctrlBase + off - s.params.ctrlBase = off := fun off => by
    rw [BitVec.add_comm, BitVec.add_sub_cancel]
  rcases h with ⟨off, hoff, rfl⟩ | ⟨off, hoff, v, rfl⟩
  · simp only [List.mem_cons, List.not_mem_nil, or_false] at hoff
    rcases hoff with rfl | rfl | rfl | rfl | rfl <;>
      exact ⟨_, by simp only [State.hostAccess, State.ctrlTarget, if_true, hsub]; rfl⟩
  · simp only [List.mem_cons, List.not_mem_nil, or_false] at hoff
    refine ⟨s.readback, ?_⟩
    rcases hoff with rfl | rfl <;>
      (simp only [State.hostAccess, State.ctrlTarget, if_true, hsub]; rfl)

end Sys2Proof.Machine
end

