-- ==== Sys2Proof/Laws/Exec.lean ====
section
/-! SUPPORT. One step of a command, said once for all 22: where the command stands (`Stands`), what its next access
does, and the uninterrupted run of what remains of it (`Prog.run`), which `Runs` follows. -/

namespace Sys2Proof.Machine

/-- Every arm of `exec` runs its command's pseudocode. -/
theorem exec_eq_runCommand (i : Instr) (s : State) : exec i s = s.runCommand (progOf i) := by
  cases i <;> rfl

/-- Command `i` is running in `s` and `p` is what remains of it (10_state R43). -/
def Stands (i : Instr) (s : State) (p : Prog) : Prop :=
  ∃ l, s.phase = .running l ∧ (progOf i s.params l.arg0 l.arg1).resume l.replies = p

/-- A command at its start has all of its pseudocode left. -/
theorem stands_at_start {i : Instr} {s : State} {w a0 a1 : Word} (h : s.At w a0 a1 []) :
    Stands i s (progOf i s.params a0 a1) :=
  ⟨_, h, rfl⟩

/-- A running command stands somewhere. -/
theorem stands_of_running (i : Instr) {s : State} {l : Latch} (h : s.phase = .running l) :
    Stands i s ((progOf i s.params l.arg0 l.arg1).resume l.replies) :=
  ⟨l, h, rfl⟩

/-- `exec` performs the first access of what remains. -/
theorem exec_of_stands {i : Instr} {s : State} {p : Prog} (h : Stands i s p) : exec i s = .next (p.act s) := by
  obtain ⟨l, hl, hp⟩ := h
  rw [exec_eq_runCommand, State.runCommand, hl]
  simp [hp]

/-- An idle sequencer has no step. -/
theorem exec_of_idle {i : Instr} {s : State} (h : s.phase = .idle) : exec i s = .next s := by
  rw [exec_eq_runCommand, State.runCommand, h]

/-- `exec` always answers a next state. -/
theorem exec_next (i : Instr) (s : State) : ∃ t, exec i s = .next t := by
  cases h : s.phase with
  | idle => exact ⟨s, exec_of_idle h⟩
  | running l => exact ⟨_, exec_of_stands (stands_of_running i h)⟩

/-- What a next state of `exec` is: the state itself when idle, else the first access of what remains. -/
theorem exec_inv {i : Instr} {s t : State} (h : exec i s = .next t) :
    (s.phase = .idle ∧ t = s) ∨ ∃ p, Stands i s p ∧ t = p.act s := by
  cases hp : s.phase with
  | idle => rw [exec_of_idle hp] at h; cases h; exact .inl ⟨rfl, rfl⟩
  | running l =>
    have hs := stands_of_running i hp
    rw [exec_of_stands hs] at h
    cases h
    exact .inr ⟨_, hs, rfl⟩

/-- One more reply takes what remains one access further. -/
theorem Prog.resume_append (p : Prog) (vs : List Word) (v : Word) :
    p.resume (vs ++ [v]) = (p.resume vs).after v := by
  simp [Prog.resume]

/-- Replying with `v` moves the command past its access. -/
theorem Stands.reply {i : Instr} {s t : State} {p : Prog} (h : Stands i s p) (hphase : t.phase = s.phase)
    (hparams : t.params = s.params) (v : Word) : Stands i (t.reply v) (p.after v) := by
  obtain ⟨l, hl, hp⟩ := h
  refine ⟨{ l with replies := l.replies ++ [v] }, State.reply_phase_of_running (hphase.trans hl) v, ?_⟩
  simp only [State.reply_params, hparams, Prog.resume_append, hp]

/-- After a read the command stands behind it, with the value read. -/
theorem Stands.read {i : Instr} {s : State} {r : Reg} {k : Word → Prog} (h : Stands i s (.read r k)) :
    Stands i (s.readStep r) (k (s.regValue r)) := by
  have hf := s.afterRead_frame r
  exact h.reply (t := s.afterRead r) hf.2.2.2.2.2.2.2.1 hf.2.2.2.2.2.2.2.2.2.1 (s.regValue r)

/-- After a write that does not fault the command stands behind it. -/
theorem Stands.write {i : Instr} {s : State} {r : Reg} {v : Word} {k : Prog} (h : Stands i s (.write r v k)) :
    Stands i ((s.storeReg v r).reply v) k := by
  have hf := s.storeReg_frame v r
  exact h.reply (t := s.storeReg v r) hf.2.2.2.2.2.1 hf.2.2.2.2.2.2.2.1 v

/-- After a wait whose condition holds the command stands behind it. -/
theorem Stands.wait {i : Instr} {s : State} {m : Word} {k : Prog} (h : Stands i s (.waitClear m k)) :
    Stands i (s.reply 0) k := by
  exact h.reply (t := s) rfl rfl 0

/-- A write that does not fault is performed. -/
theorem State.writeStep_of_ok {s : State} {r : Reg} {v : Word} (h : s.directFault r = none) :
    s.writeStep r v = (s.storeReg v r).reply v := by
  simp [State.writeStep, h]

/-- A write that faults raises its fault and does nothing else (10_state R40). -/
theorem State.writeStep_of_fault {s : State} {r : Reg} {v : Word} {f : Fault} (h : s.directFault r = some f) :
    s.writeStep r v = s.raise f := by
  simp [State.writeStep, h]

/-- A direct write faults exactly when the channel is enabled (10_state R40). -/
theorem State.directFault_eq (s : State) (r : Reg) :
    s.directFault r = match r.direct with
      | some (c, d) => if (s.chan c).en = true then some (.directWriteWhileEnabled c d) else none
      | none => none := by
  cases r <;> rfl

/-- The uninterrupted run of `n` accesses that ends with `finish`; none if it needs another number of them, meets a
wait whose condition is false, or a direct write to an enabled channel. -/
def Prog.run : Nat → Prog → State → Option State
  | 0, _, _ => none
  | n + 1, .finish e r, s => if n = 0 then some (s.finish e r) else none
  | n + 1, .read r k, s => Prog.run n (k (s.regValue r)) (s.afterRead r)
  | n + 1, .write r v k, s =>
    match s.directFault r with
    | some _ => none
    | none => Prog.run n k (s.storeReg v r)
  | n + 1, .waitClear m k, s => if s.srWord &&& m = 0 then Prog.run n k s else none

/-- The state with another phase. -/
def State.setPhase (s : State) (p : Phase) : State := { s with phase := p }

theorem State.reply_eq_setPhase (s : State) (v : Word) : s.reply v = s.setPhase (s.reply v).phase := rfl

theorem State.setPhase_afterRead (s : State) (p : Phase) (r : Reg) :
    (s.setPhase p).afterRead r = (s.afterRead r).setPhase p := by cases r <;> rfl

theorem State.setPhase_storeReg (s : State) (p : Phase) (v : Word) (r : Reg) :
    (s.setPhase p).storeReg v r = (s.storeReg v r).setPhase p := by cases r <;> rfl

theorem State.setPhase_regValue (s : State) (p : Phase) (r : Reg) : (s.setPhase p).regValue r = s.regValue r := by
  cases r <;> rfl

theorem State.setPhase_directFault (s : State) (p : Phase) (r : Reg) :
    (s.setPhase p).directFault r = s.directFault r := by cases r <;> rfl

/-- The run does not look at the phase, which only `finish` sets. -/
theorem Prog.run_setPhase (n : Nat) (p : Prog) (s : State) (q : Phase) : Prog.run n p (s.setPhase q) = Prog.run n p s := by
  induction n generalizing p s with
  | zero => rfl
  | succ n ih =>
    cases p with
    | finish e r => rfl
    | read r k => simp [Prog.run, State.setPhase_regValue, State.setPhase_afterRead, ih]
    | write r v k =>
      simp only [Prog.run, State.setPhase_directFault, State.setPhase_storeReg, ih]
    | waitClear m k => exact if_congr Iff.rfl (ih k s) rfl

theorem Prog.run_reply (n : Nat) (p : Prog) (s : State) (v : Word) : Prog.run n p (s.reply v) = Prog.run n p s := by
  rw [State.reply_eq_setPhase, Prog.run_setPhase]

/-- The uninterrupted run of what remains is a run of `exec`. -/
theorem runs_of_run {i : Instr} {n : Nat} {p : Prog} {s t : State} (h : Stands i s p) (hr : Prog.run n p s = some t) :
    Runs i n s t := by
  induction n generalizing p s with
  | zero => simp [Prog.run] at hr
  | succ n ih =>
    refine ⟨p.act s, exec_of_stands h, ?_⟩
    cases p with
    | finish e r =>
      simp only [Prog.run] at hr
      split at hr
      · next hn => subst hn; cases hr; rfl
      · cases hr
    | read r k => exact ih h.read ((Prog.run_reply _ _ _ _).trans hr)
    | write r v k =>
      simp only [Prog.run] at hr
      split at hr
      · cases hr
      · next hf =>
        simp only [Prog.act, State.writeStep_of_ok hf]
        exact ih h.write (by rw [Prog.run_reply]; exact hr)
    | waitClear m k =>
      simp only [Prog.run] at hr
      split at hr
      · next hm =>
        simp only [Prog.act, State.waitStep, hm, if_true]
        exact ih h.wait (by rw [Prog.run_reply]; exact hr)
      · cases hr

/-! ### The reset of a channel (42_channel R162), when it is disabled -/

/-- A write of DIS that names no enabled channel changes nothing (10_state R25). -/
theorem State.writeDis_of_disabled {s : State} {m : Word} (h : ∀ c, chBit m c = true → (s.chan c).en = false) :
    s.writeDis m = s := by
  have hc : (s.writeDis m).chans = s.chans := by
    apply State.chans_ext
    intro c
    rw [State.writeDis_chan, Chan.disableAct]
    split
    · next he =>
      rw [Bool.and_eq_true] at he
      exact absurd he.2 (by simp [h c he.1])
    · rfl
  simp only [State.writeDis, State.mapChans] at hc ⊢
  rw [hc]

/-- The whole-register writes of reset_channel leave a channel with no hidden bit set at its reset value. -/
theorem Prog.run_zeroAll (n : Nat) (p : Params) (c : Channel) (k : Prog) (s : State) (h : (s.chan c).Quiet) :
    Prog.run (n + 14) (Prog.zeroAll p (Prog.channelRegs c) k) s = Prog.run n k (s.setChan c Chan.reset) := by
  obtain ⟨h1, h2, h3, h4, h5⟩ := h
  simp [Prog.zeroAll, Prog.channelRegs, Prog.setField, Prog.run, State.directFault, State.storeReg,
    State.afterRead, h1, h2, h3, h4, h5, Chan.writePrdShadow, Chan.writeDtyShadow, Chan.writeDtShadow]
  rfl

/-- reset_channel of such a channel makes 16 accesses and waits for none. -/
theorem Prog.run_resetChannel (n : Nat) (p : Params) (c : Channel) (k : Prog) (s : State) (h : (s.chan c).Quiet) :
    Prog.run (n + 16) (Prog.resetChannel p c k) s = Prog.run n k (s.setChan c Chan.reset) := by
  have hd : ∀ d, chBit (channelBit c) d = true → (s.chan d).en = false := by
    intro d hd
    simp only [chBit_channelBit, decide_eq_true_eq] at hd
    exact hd ▸ h.1
  have hs : s.storeReg (channelBit c) .dis = s := State.writeDis_of_disabled hd
  have hw := (srWord_and_eq_zero_iff s (channelBit c)).2 hd
  simp only [Prog.resetChannel, Prog.disable, Prog.run, State.directFault, hs, hw, if_true, run_zeroAll n p c k s h]

/-- reset_channel of each channel of a list, in order. -/
theorem Prog.run_resetChannels (n : Nat) (p : Params) (cs : List Channel) (k : Prog) (s : State)
    (h : ∀ c, (s.chan c).Quiet) :
    Prog.run (n + 16 * cs.length) (cs.foldr (fun c rest => Prog.resetChannel p c rest) k) s =
      Prog.run n k (cs.foldl (fun s c => s.setChan c Chan.reset) s) := by
  induction cs generalizing s with
  | nil => rfl
  | cons c cs ih =>
    rw [List.length_cons, Nat.mul_succ, ← Nat.add_assoc, List.foldr_cons, run_resetChannel _ _ _ _ _ (h c)]
    refine ih _ fun d => ?_
    by_cases e : d = c
    · subst e
      simp [Chan.Quiet]
    · rw [State.setChan_chan_of_ne _ _ _ _ e]
      exact h d

/-- Any 16 replies take reset_channel to what follows it: no write of it depends on a value read. -/
theorem Prog.resume_resetChannel (p : Params) (c : Channel) (k : Prog) (vs : List Word) (h : vs.length = 16) :
    (Prog.resetChannel p c k).resume vs = k := by
  match vs, h with
  | [_, _, _, _, _, _, _, _, _, _, _, _, _, _, _, _], _ => rfl

/-- Replies are consumed in order. -/
theorem Prog.resume_append_list (p : Prog) (us vs : List Word) : p.resume (us ++ vs) = (p.resume us).resume vs := by
  simp [Prog.resume]

/-- Resetting the channels of a list leaves exactly those at the reset value. -/
theorem State.chan_foldl_reset (cs : List Channel) (s : State) (d : Channel) :
    (cs.foldl (fun s c => s.setChan c Chan.reset) s).chan d = if d ∈ cs then Chan.reset else s.chan d := by
  induction cs generalizing s with
  | nil => rfl
  | cons c cs ih =>
    rw [List.foldl_cons, ih]
    by_cases e : d = c
    · subst e
      simp
    · rw [State.setChan_chan_of_ne _ _ _ _ e]
      simp [e]

/-- Resetting channels changes the channels alone. -/
theorem State.foldl_reset_eq (cs : List Channel) (s : State) :
    cs.foldl (fun s c => s.setChan c Chan.reset) s =
      { s with chans := (cs.foldl (fun s c => s.setChan c Chan.reset) s).chans } := by
  induction cs generalizing s with
  | nil => rfl
  | cons c cs ih =>
    rw [List.foldl_cons, ih]
    rfl

/-! ### A command behind given replies, and the disable and enable of one channel -/

/-- A command with given replies stands at what they leave of its pseudocode. -/
theorem stands_of_at {i : Instr} {s : State} {w a0 a1 : Word} {vs : List Word} (h : s.At w a0 a1 vs) :
    Stands i s ((progOf i s.params a0 a1).resume vs) :=
  ⟨_, h, rfl⟩

/-- One channel's disable wait ends exactly when the channel is disabled (42_channel R152). -/
theorem srWord_and_channelBit_eq_zero_iff (s : State) (c : Channel) :
    s.srWord &&& channelBit c = 0 ↔ (s.chan c).en = false := by
  rw [srWord_and_eq_zero_iff]
  constructor
  · intro h
    exact h c (by simp)
  · intro h d hd
    simp only [chBit_channelBit, decide_eq_true_eq] at hd
    exact hd ▸ h

/-- At the wait of an enabled channel a command's step changes nothing (60_exceptions R311). -/
theorem exec_of_stands_wait {i : Instr} {s : State} {c : Channel} {k : Prog}
    (h : Stands i s (.waitClear (channelBit c) k)) (he : (s.chan c).en = true) : exec i s = .next s := by
  have hw : ¬ s.srWord &&& channelBit c = 0 := fun h0 => by simpa [he] using (srWord_and_channelBit_eq_zero_iff s c).1 h0
  rw [exec_of_stands h, Prog.act, State.waitStep, if_neg hw]

/-- The DIS write of an enabled channel. -/
theorem exec_of_stands_disable {i : Instr} {s : State} {w a0 a1 : Word} {vs : List Word} {c : Channel} {k : Prog}
    (hat : s.At w a0 a1 vs) (h : Stands i s (.write .dis (channelBit c) k)) (he : (s.chan c).en = true) :
    exec i s = .next (s.disableRequested c w a0 a1 (vs ++ [channelBit c])) := by
  have hp : s.phase = _ := hat
  rw [exec_of_stands h]
  simp [Prog.act, State.writeStep, State.directFault, State.storeReg, State.writeDis_channelBit he,
    State.disableRequested, State.reply, hp, State.setChan]

/-- The ENA write of a disabled channel, inside an uninterrupted run. -/
theorem Prog.run_enable (n : Nat) (s : State) (c : Channel) (k : Prog) (h : (s.chan c).en = false) :
    Prog.run (n + 1) (Prog.enable (channelBit c) k) s = Prog.run n k (s.setChan c { s.chan c with en := true }).tick := by
  simp [Prog.enable, Prog.run, State.directFault, State.storeReg, State.writeEna_channelBit h]

end Sys2Proof.Machine
end

