-- ==== Sys2Proof/Laws/Frame.lean ====
section
/-! SUPPORT. Which writes a command's pseudocode may make (`Prog.Only`): said once per primitive, kept by every access,
and with it everything one step of a command can do. -/

namespace Sys2Proof.Machine

/-- Every register write of `p` is one `W` allows. -/
def Prog.Only (W : Reg → Word → Prop) : Prog → Prop
  | .finish _ _ => True
  | .read _ k => ∀ v, (k v).Only W
  | .write r v k => W r v ∧ k.Only W
  | .waitClear _ k => k.Only W

theorem Prog.Only.after {W : Reg → Word → Prop} {p : Prog} (h : p.Only W) (v : Word) : (p.after v).Only W := by
  cases p with
  | finish e r => exact h
  | read r k => exact h v
  | write r x k => exact h.2
  | waitClear m k => exact h

/-- What remains of a command writes nothing the whole does not. -/
theorem Prog.Only.resume {W : Reg → Word → Prop} {p : Prog} (h : p.Only W) (vs : List Word) : (p.resume vs).Only W := by
  induction vs generalizing p with
  | nil => exact h
  | cons v vs ih => exact ih (h.after v)

/-- Everything one step of a command can do: nothing, finish, one read, one allowed write (or its fault), or one wait. -/
theorem exec_of_only {i : Instr} {W : Reg → Word → Prop} {s t : State}
    (hW : ∀ p a0 a1, (progOf i p a0 a1).Only W) (h : exec i s = .next t) :
    t = s ∨ (∃ e r, t = s.finish e r) ∨ (∃ r, t = s.readStep r) ∨ (∃ r v, W r v ∧ t = s.writeStep r v) ∨
      t = s.reply 0 := by
  rcases exec_inv h with ⟨-, rfl⟩ | ⟨p, ⟨l, -, hp⟩, rfl⟩
  · exact .inl rfl
  · have ho : p.Only W := hp ▸ (hW s.params l.arg0 l.arg1).resume l.replies
    cases p with
    | finish e r => exact .inr (.inl ⟨e, r, rfl⟩)
    | read r k => exact .inr (.inr (.inl ⟨r, rfl⟩))
    | write r v k => exact .inr (.inr (.inr (.inl ⟨r, v, ho.1, rfl⟩)))
    | waitClear m k =>
      simp only [Prog.act, State.waitStep]
      split
      · exact .inr (.inr (.inr (.inr rfl)))
      · exact .inl rfl

theorem Prog.Only.setField {W : Reg → Word → Prop} {p : Params} {r : Reg} {m v : Word} {k : Prog}
    (hr : ∀ x, W r x) (hk : k.Only W) : (Prog.setField p r m v k).Only W :=
  fun _ => ⟨hr _, hk⟩

theorem Prog.Only.getField {W : Reg → Word → Prop} {p : Params} {r : Reg} {m : Word} {k : Word → Prog}
    (hk : ∀ x, (k x).Only W) : (Prog.getField p r m k).Only W :=
  fun _ => hk _

theorem Prog.Only.disable {W : Reg → Word → Prop} {m : Word} {k : Prog} (hr : W .dis m) (hk : k.Only W) :
    (Prog.disable m k).Only W :=
  ⟨hr, hk⟩

theorem Prog.Only.disableIf {W : Reg → Word → Prop} {b : Bool} {c : Channel} {k : Prog} (hr : W .dis (channelBit c))
    (hk : k.Only W) : (Prog.disableIf b c k).Only W := by
  unfold Prog.disableIf
  split
  · exact ⟨hr, hk⟩
  · exact hk

theorem Prog.Only.enableIf {W : Reg → Word → Prop} {b : Bool} {c : Channel} {k : Prog} (hr : W .ena (channelBit c))
    (hk : k.Only W) : (Prog.enableIf b c k).Only W := by
  unfold Prog.enableIf
  split
  · exact ⟨hr, hk⟩
  · exact hk

theorem Prog.Only.setPeriod {W : Reg → Word → Prop} {p : Params} {c : Channel} {v : Word} {k : Prog}
    (hs : ∀ x, W (.cprdupd c) x) (hd : ∀ x, W (.cprd c) x) (hk : k.Only W) : (Prog.setPeriod p c v k).Only W := by
  intro sr
  dsimp only
  split
  · exact .setField hs hk
  · exact .setField hd hk

theorem Prog.Only.setDuty {W : Reg → Word → Prop} {p : Params} {c : Channel} {v : Word} {k : Prog}
    (hs : ∀ x, W (.cdtyupd c) x) (hd : ∀ x, W (.cdty c) x) (hk : k.Only W) : (Prog.setDuty p c v k).Only W := by
  intro sr
  dsimp only
  split
  · exact .setField hs hk
  · exact .setField hd hk

theorem Prog.Only.zeroAll {W : Reg → Word → Prop} {p : Params} {regs : List Reg} {k : Prog}
    (hr : ∀ r ∈ regs, ∀ x, W r x) (hk : k.Only W) : (Prog.zeroAll p regs k).Only W := by
  induction regs with
  | nil => exact hk
  | cons r regs ih =>
    exact .setField (hr r List.mem_cons_self) (ih fun q hq => hr q (List.mem_cons_of_mem _ hq))

theorem Prog.Only.setClock {W : Reg → Word → Prop} {p : Params} {ck : SharedClock} {pre div : Word} {k : Prog}
    (hr : ∀ x, W .clk x) (hk : k.Only W) : (Prog.setClock p ck pre div k).Only W :=
  .setField hr (.setField hr hk)

/-- resolve_local writes the period, CMRc, and the bit of its channel to DIS and ENA; `k` writes what it may. -/
theorem Prog.Only.resolveLocal {W : Reg → Word → Prop} {p : Params} {c : Channel} {f : Word}
    {k : Except ErrCode Word → Prog} (hdis : W .dis (channelBit c)) (hena : W .ena (channelBit c))
    (hs : ∀ x, W (.cprdupd c) x) (hd : ∀ x, W (.cprd c) x) (hc : ∀ x, W (.cmr c) x) (hk : ∀ r, (k r).Only W) :
    (Prog.resolveLocal p c f k).Only W := by
  unfold Prog.resolveLocal
  split
  · exact hk _
  · refine .getField fun calg => ?_
    split
    · exact hk _
    · split
      · exact hk _
      · exact fun sr => .disableIf hdis (.setPeriod hs hd (.setField hc (.enableIf hena (hk _))))

/-- resolve_shared writes CLK, CMRc, and the bit of its channel to DIS and ENA; `k` writes what it may. -/
theorem Prog.Only.resolveShared {W : Reg → Word → Prop} {p : Params} {c : Channel} {f : Word} {ck : SharedClock}
    {k : Except ErrCode Word → Prog} (hdis : W .dis (channelBit c)) (hena : W .ena (channelBit c))
    (hclk : ∀ x, W .clk x) (hc : ∀ x, W (.cmr c) x) (hk : ∀ r, (k r).Only W) :
    (Prog.resolveShared p c f ck k).Only W := by
  unfold Prog.resolveShared
  split
  · exact hk _
  · split
    · exact hk _
    · exact fun sr => .disableIf hdis (.setClock hclk (.setField hc (.enableIf hena (hk _))))

/-- INITC's shared-clock path writes what resolve_shared and `k` do: its alignment read on an error is no write. -/
theorem Prog.Only.initcResolve_shared {W : Reg → Word → Prop} {p : Params} {c : Channel} {f : Word} {ck : SharedClock}
    {k : Except ErrCode Word → Prog} (hdis : W .dis (channelBit c)) (hena : W .ena (channelBit c))
    (hclk : ∀ x, W .clk x) (hc : ∀ x, W (.cmr c) x) (hk : ∀ r, (k r).Only W) :
    (initcResolve p c f (some ck) k).Only W := by
  unfold initcResolve
  refine Prog.Only.resolveShared hdis hena hclk hc fun r => ?_
  cases r with
  | error e => exact .getField fun _ => hk _
  | ok payload => exact hk _

end Sys2Proof.Machine
end

