-- ==== Sys2Proof/Laws/PerInstr.lean ====
section
/-! SUPPORT. One statement per instruction: its word lies in its row of the opcode map (30_encoding R90). -/

namespace Sys2Proof.Laws.EncodeMatchesRow

/-- The word of `i` matches the row of the opcode map that its opcode selects: the reserved bits are 0 (R90, R91). -/
def Statement (i : Instr) : Prop :=
  ∃ row, opcodeRows[(opOf (encode i)).toNat - 1]? = some row ∧ encode i &&& row.1 = row.2

/-- A word with opcode `op` that matches row `op - 1` of the map. -/
theorem of_row {i : Instr} (op : BitVec 6) {row : Word × Word} (hop : opOf (encode i) = op)
    (hrow : opcodeRows[op.toNat - 1]? = some row) (hw : encode i &&& row.1 = row.2) : Statement i :=
  ⟨row, by rw [hop, hrow], hw⟩

theorem initp : Statement .initp :=
  of_row 0x01 (by decide) rfl (by decide)

theorem initc (ch : Channel) (align : Sys2Proof.Alignment) (pol : Polarity) (useClk : Bool) (ck : BitVec 2) :
    Statement (.initc ch align pol useClk ck) := by
  refine of_row 0x02 ?_ rfl ?_ <;> cases align <;> cases pol <;> revert ch useClk ck <;> decide

theorem enable (chm : BitVec 8) : Statement (.enable chm) := by
  refine of_row 0x03 ?_ rfl ?_ <;> revert chm <;> decide

theorem disable (chm : BitVec 8) : Statement (.disable chm) := by
  refine of_row 0x04 ?_ rfl ?_ <;> revert chm <;> decide

theorem isen (ch : Channel) : Statement (.isen ch) := by
  refine of_row 0x05 ?_ rfl ?_ <;> revert ch <;> decide

theorem setpol (ch : Channel) : Statement (.setpol ch) := by
  refine of_row 0x06 ?_ rfl ?_ <;> revert ch <;> decide

theorem setalg (ch : Channel) : Statement (.setalg ch) := by
  refine of_row 0x07 ?_ rfl ?_ <;> revert ch <;> decide

theorem setpre (ch : Channel) : Statement (.setpre ch) := by
  refine of_row 0x08 ?_ rfl ?_ <;> revert ch <;> decide

theorem setper (ch : Channel) : Statement (.setper ch) := by
  refine of_row 0x09 ?_ rfl ?_ <;> revert ch <;> decide

theorem setdty (ch : Channel) : Statement (.setdty ch) := by
  refine of_row 0x0A ?_ rfl ?_ <;> revert ch <;> decide

theorem setfreq (ch : Channel) : Statement (.setfreq ch) := by
  refine of_row 0x0B ?_ rfl ?_ <;> revert ch <;> decide

theorem setclkf (ch : Channel) (ck : BitVec 2) : Statement (.setclkf ch ck) := by
  refine of_row 0x0C ?_ rfl ?_ <;> revert ch ck <;> decide

theorem setclk (ck : BitVec 2) : Statement (.setclk ck) := by
  refine of_row 0x0D ?_ rfl ?_ <;> revert ck <;> decide

theorem clkoff (ck : BitVec 2) : Statement (.clkoff ck) := by
  refine of_row 0x0E ?_ rfl ?_ <;> revert ck <;> decide

theorem resetc (ch : Channel) : Statement (.resetc ch) := by
  refine of_row 0x0F ?_ rfl ?_ <;> revert ch <;> decide

theorem resetp : Statement .resetp :=
  of_row 0x10 (by decide) rfl (by decide)

theorem getper (ch : Channel) : Statement (.getper ch) := by
  refine of_row 0x11 ?_ rfl ?_ <;> revert ch <;> decide

theorem getalg (ch : Channel) : Statement (.getalg ch) := by
  refine of_row 0x12 ?_ rfl ?_ <;> revert ch <;> decide

theorem getpre (ch : Channel) : Statement (.getpre ch) := by
  refine of_row 0x13 ?_ rfl ?_ <;> revert ch <;> decide

theorem getdty (ch : Channel) : Statement (.getdty ch) := by
  refine of_row 0x14 ?_ rfl ?_ <;> revert ch <;> decide

theorem setf (regw : BitVec 10) : Statement (.setf regw) := by
  refine of_row 0x15 ?_ rfl ?_ <;>
    · apply BitVec.eq_of_getLsbD_eq
      intro n hn
      simp only [encode, fmtR, opOf, BitVec.getLsbD_extractLsb', BitVec.getLsbD_and, BitVec.getLsbD_append]
      interval_cases n <;> simp

theorem getf (regw : BitVec 10) : Statement (.getf regw) := by
  refine of_row 0x16 ?_ rfl ?_ <;>
    · apply BitVec.eq_of_getLsbD_eq
      intro n hn
      simp only [encode, fmtR, opOf, BitVec.getLsbD_extractLsb', BitVec.getLsbD_and, BitVec.getLsbD_append]
      interval_cases n <;> simp

end Sys2Proof.Laws.EncodeMatchesRow
end

