-- ==== Sys2Proof/Tests/Slice0.lean ====
section
/-! SUPPORT. Small tests of one step each, with the expected values of 95_test_vectors and of the rules' examples, and
a witness that meets the hypotheses of every obligation that has some. -/

namespace Sys2Proof.Tests

open Sys2Proof.Machine

/-! ### WellFormed (30_encoding R87) -/

theorem test_wf_refuses_clock_without_use : (Instr.initc 0 .left .normal false 1).wellFormed = false := by decide
theorem test_wf_admits_unrecognized_clock : (Instr.initc 0 .left .normal true 3).wellFormed = true := by decide

/-! ### Decode: a word written out for every constructor (30_encoding R82 to R90) -/

theorem test_decode_initp : decode 0b000001_00000000000000000000000000 = .ok .initp := by decide
theorem test_decode_initc :
    decode 0b000010_01_1_1_0_000000000000000000_101 = .ok (.initc 5 .center .normal true 1) := by decide
theorem test_decode_initc_local :
    decode 0b000010_00_0_0_1_000000000000000000_110 = .ok (.initc 6 .left .inverted false 0) := by decide
theorem test_decode_enable : decode 0b000011_000000000000000000_10000001 = .ok (.enable 0x81) := by decide
theorem test_decode_disable : decode 0b000100_000000000000000000_00000101 = .ok (.disable 5) := by decide
theorem test_decode_isen : decode 0b000101_00000000000000000000000_010 = .ok (.isen 2) := by decide
theorem test_decode_setpol : decode 0b000110_00000000000000000000000_001 = .ok (.setpol 1) := by decide
theorem test_decode_setalg : decode 0b000111_00000000000000000000000_011 = .ok (.setalg 3) := by decide
theorem test_decode_setpre : decode 0b001000_00000000000000000000000_001 = .ok (.setpre 1) := by decide
theorem test_decode_setper : decode 0b001001_00000000000000000000000_011 = .ok (.setper 3) := by decide
theorem test_decode_setdty : decode 0b001010_00000000000000000000000_100 = .ok (.setdty 4) := by decide
theorem test_decode_setfreq : decode 0b001011_00000000000000000000000_111 = .ok (.setfreq 7) := by decide
theorem test_decode_setclkf : decode 0b001100_01_000000000000000000000_110 = .ok (.setclkf 6 1) := by decide
theorem test_decode_setclk : decode 0b001101_000000000000000000000000_01 = .ok (.setclk 1) := by decide
theorem test_decode_clkoff : decode 0b001110_000000000000000000000000_10 = .ok (.clkoff 2) := by decide
theorem test_decode_resetc : decode 0b001111_00000000000000000000000_100 = .ok (.resetc 4) := by decide
theorem test_decode_resetp : decode 0b010000_00000000000000000000000000 = .ok .resetp := by decide
theorem test_decode_getper : decode 0b010001_00000000000000000000000_101 = .ok (.getper 5) := by decide
theorem test_decode_getalg : decode 0b010010_00000000000000000000000_110 = .ok (.getalg 6) := by decide
theorem test_decode_getpre : decode 0b010011_00000000000000000000000_111 = .ok (.getpre 7) := by decide
theorem test_decode_getdty : decode 0b010100_00000000000000000000000_011 = .ok (.getdty 3) := by decide
theorem test_decode_setf : decode 0b010101_0000000000000000_0010011100 = .ok (.setf 0x9C) := by decide
theorem test_decode_getf : decode 0b010110_0000000000000000_0010000101 = .ok (.getf 0x85) := by decide

/-- 95_test_vectors section 2.6. -/
theorem test_decode_illegal :
    decode 0x00000000 = .error .unassignedOpcode ∧ decode 0x5C000000 = .error .unassignedOpcode ∧
    decode 0xFFFFFFFF = .error .unassignedOpcode ∧ decode 0x04000001 = .error .reservedBitSet ∧
    decode 0x0C000100 = .error .reservedBitSet ∧ decode 0x14000008 = .error .reservedBitSet ∧
    decode 0x34000004 = .error .reservedBitSet ∧ decode 0x30000008 = .error .reservedBitSet ∧
    decode 0x54000400 = .error .reservedBitSet ∧ decode 0x08100000 = .error .reservedBitSet ∧
    decode 0x09000000 = .error .clockWithoutUse := by decide

/-! ### The helper states -/

/-- `s` with a command running on operands `a0` and `a1`, whose accesses so far gave `vs`. -/
def started (s : State) (w a0 a1 : Word) (vs : List Word) : State :=
  { s with phase := .running { cmd := w, arg0 := a0, arg1 := a1, replies := vs } }

/-- The next state of an outcome. -/
def nextOf : Host.Outcome State Fault Refusal → Option State
  | .next t => some t
  | .fault _ => none
  | .refused _ => none

/-- Channel 0 as the vectors' "ch0 running". -/
def runningChan : Chan := { Chan.reset with cmr := 1, cprd := 42000, cdty := 21000, en := true }

/-- "ch0 running" of 95_test_vectors section 2.3. -/
def ch0Running : State := State.reset.setChan 0 runningChan

/-- The reset state under the rule Topmost. -/
def topmost : State := { State.reset with params := { Config.defaultParams with shiftRule := .topmost } }

/-- A field of channel `c` after one step of `i`. -/
def chanAfter {α : Type} (f : Chan → α) (c : Channel) (i : Instr) (s : State) : Option α :=
  (nextOf (exec i s)).map fun t => f (t.chan c)

/-- CLK after one step of `i`. -/
def clkAfter (i : Instr) (s : State) : Option Word := (nextOf (exec i s)).map State.clk

/-- What a finishing step reports: BUSY, ERR, RESULT. -/
def reportAfter (i : Instr) (s : State) : Option (Bool × ErrCode × Word) :=
  (nextOf (exec i s)).map fun t => (t.busy, t.err, t.result)

/-! ### One step of each command -/

/-- L3: `W 000<-30A05`. -/
theorem test_initp_writes_divisor :
    clkAfter .initp (started State.reset 0 0xA05 0 [0x30900, 0x30A00, 0x30A00]) = some 0x30A05 := by decide
/-- L6: only ignored bits. -/
theorem test_initp_without_divisors :
    reportAfter .initp (started State.reset 0 0xF000F000 0 []) = some (false, .ok, 0) := by decide
/-- I3: `W 200<-100`, the alignment over the word read. -/
theorem test_initc_writes_alignment :
    chanAfter Chan.cmr 0 (.initc 0 .center .inverted false 0)
      (started State.reset 0 2000 5000 [1, 1, 0, 1, 0, 0, 0xA410, 0xA410, 1, 0, 0]) = some 0x100 := by decide
/-- I6. -/
theorem test_initc_unrecognized_clock :
    reportAfter (.initc 0 .left .normal true 3) (started State.reset 0 1000 0 []) = some (false, .clockId, 0) := by
  decide
/-- H1. -/
theorem test_enable_sets_sr :
    (nextOf (exec (.enable 5) (started State.reset 0 0 0 []))).map State.srWord = some 5 := by decide
/-- H4: the request is made, SR still 1. -/
theorem test_disable_requests :
    chanAfter (fun ch => (ch.disreq, ch.en)) 0 (.disable 1) (started ch0Running 0 0 0 []) = some (true, true) := by
  decide
/-- H4: the sequencer stays at the wait. -/
theorem test_disable_holds :
    nextOf (exec (.disable 1) (started ch0Running 0 0 0 [1])) = some (started ch0Running 0 0 0 [1]) := by decide
/-- H3. -/
theorem test_isen_reports_one :
    reportAfter (.isen 0) (started ch0Running 0 0 0 [1]) = some (false, .ok, 1) := by decide
/-- H10: only ARG0 bit 0 is used. -/
theorem test_setpol_uses_one_bit :
    chanAfter Chan.cmr 0 (.setpol 0) (started ch0Running 0 3 0 [1]) = some 0x201 := by decide
/-- H12. -/
theorem test_setalg_center :
    chanAfter Chan.cmr 3 (.setalg 3) (started State.reset 0 1 0 [1]) = some 0x101 := by decide
/-- H13, Lowest. -/
theorem test_setpre_lowest :
    chanAfter Chan.cmr 1 (.setpre 1) (started State.reset 0 4 0 [0x100]) = some 0x104 := by decide
/-- H13, Topmost. -/
theorem test_setpre_topmost :
    chanAfter Chan.cmr 1 (.setpre 1) (started topmost 0 4 0 [0x100]) = some 0x120 := by decide
/-- H15: the direct path. -/
theorem test_setper_direct :
    chanAfter Chan.cprd 3 (.setper 3) (started State.reset 0 1000 0 [0, 0]) = some 1000 := by decide
/-- H17: the shadow path. -/
theorem test_setper_shadow :
    chanAfter (fun ch => (ch.cprdupd, ch.pendPrd, ch.cprd)) 0 (.setper 0) (started ch0Running 0 21000 0 [1, 0]) =
      some (0x5208, true, 42000) := by decide
/-- H16. -/
theorem test_setdty_direct :
    chanAfter Chan.cdty 3 (.setdty 3) (started State.reset 0 500 0 [0, 0]) = some 0x1F4 := by decide
/-- H18. -/
theorem test_setdty_shadow :
    chanAfter (fun ch => (ch.cdtyupd, ch.pendDty, ch.cdty)) 0 (.setdty 0) (started ch0Running 0 10500 0 [1, 0]) =
      some (10500, true, 21000) := by decide
/-- S1: `W 20C<-A410`. -/
theorem test_setfreq_writes_period :
    chanAfter Chan.cprd 0 (.setfreq 0) (started State.reset 0 1000 0 [0, 0, 0, 0]) = some 0xA410 := by decide
/-- Section 2.4, 42 000 001 Hz, Center. -/
theorem test_setfreq_zero_period :
    reportAfter (.setfreq 0) (started State.reset 0 42000001 0 [0x100]) = some (false, .zeroPeriod, 0) := by decide
/-- Z4: `W 000<-9000000`. -/
theorem test_setclkf_writes_prescaler :
    clkAfter (.setclkf 0 1) (started State.reset 0 1000 0 [0, 0]) = some 0x9000000 := by decide
/-- Z6: the clock identifier before the frequency. -/
theorem test_setclkf_priority :
    reportAfter (.setclkf 0 3) (started State.reset 0 0 0 []) = some (false, .clockId, 0) := by decide
/-- K1: `W 000<-9A4`. -/
theorem test_setclk_a : clkAfter (.setclk 0) (started State.reset 0 0x9A4 0 [0, 0x900, 0x900]) = some 0x9A4 := by decide
/-- K2, Topmost. -/
theorem test_setclk_b_topmost :
    clkAfter (.setclk 1) (started topmost 0 0xA05 0 [0, 0x50000000, 0x50000000]) = some 0x52800000 := by decide
/-- K3. -/
theorem test_clkoff_a : clkAfter (.clkoff 0) (started State.reset 0 0 0 [0x0A0509A4]) = some 0x0A050900 := by decide
/-- K4. -/
theorem test_clkoff_b : clkAfter (.clkoff 1) (started State.reset 0 0 0 [0x0A050900]) = some 0x0A000900 := by decide
/-- H22: `W 20C<-0` behind the wait. -/
theorem test_resetc_zeroes_period :
    chanAfter Chan.cprd 0 (.resetc 0)
      (started (State.reset.setChan 0 { runningChan with en := false }) 0 0 0 [1, 0, 1, 0, 0x5208, 0, 0, 0, 0xA410]) =
      some 0 := by decide
/-- L10: `W 000<-0` first. -/
theorem test_resetp_zeroes_clk_first :
    clkAfter .resetp (started (State.reset.setClk 0x9A4) 0 0 0 [0x9A4]) = some 0 := by decide
/-- L11: RESETP holds at the wait of a channel that is still enabled. -/
theorem test_resetp_holds :
    nextOf (exec .resetp (started ch0Running 0 0 0 [0x9A4, 0, 1])) = some (started ch0Running 0 0 0 [0x9A4, 0, 1]) := by
  decide
/-- H24. -/
theorem test_getper : reportAfter (.getper 0) (started State.reset 0 0 0 [0xA410]) = some (false, .ok, 42000) := by decide
/-- B11, Topmost. -/
theorem test_getper_topmost : reportAfter (.getper 0) (started topmost 0 0 0 [0xA410]) = some (false, .ok, 1) := by decide
/-- H23. -/
theorem test_getalg : reportAfter (.getalg 0) (started State.reset 0 0 0 [0x101]) = some (false, .ok, 1) := by decide
/-- H23. -/
theorem test_getpre : reportAfter (.getpre 0) (started State.reset 0 0 0 [0x101]) = some (false, .ok, 1) := by decide
/-- H23, Topmost. -/
theorem test_getpre_topmost : reportAfter (.getpre 0) (started topmost 0 0 0 [0x10B]) = some (false, .ok, 1) := by decide
/-- H24. -/
theorem test_getdty : reportAfter (.getdty 0) (started State.reset 0 0 0 [0x5208]) = some (false, .ok, 21000) := by decide
/-- B1. -/
theorem test_setf_field : chanAfter Chan.cmr 0 (.setf 0x80) (started State.reset 0 0xF 5 [0x300]) = some 0x305 := by decide
/-- F1: the fault mark, the period kept, BUSY 1. -/
theorem test_setf_direct_faults :
    (nextOf (exec (.setf 0x83) (started ch0Running 0 0xFFFF 1 [42000]))).map
      (fun t => (t.fault, (t.chan 0).cprd, t.busy)) =
      some (some (.directWriteWhileEnabled 0 .cprd), 42000, true) := by decide
/-- B2. -/
theorem test_getf_field : reportAfter (.getf 0) (started State.reset 0 0xF00 0 [0xA05]) = some (false, .ok, 0xA) := by
  decide
/-- B22. -/
theorem test_getf_unmapped :
    reportAfter (.getf 4) (started State.reset 0 0xFFFF 0 []) = some (false, .badRegister, 0) := by decide

/-! ### The other agents -/

/-- P2 line 4: both transfers at one boundary. -/
theorem test_boundary_transfers :
    (ch0Running.setChan 0 { runningChan with cprdupd := 0x5208, pendPrd := true, cdtyupd := 0x2904, pendDty := true }
      |>.boundary 0).chan 0 =
      { runningChan with cprd := 0x5208, cprdupd := 0x5208, cdty := 0x2904, cdtyupd := 0x2904 } := by decide
/-- X1: a channel whose clock is off reaches no boundary. -/
theorem test_boundary_clock_off :
    (State.reset.setChan 1 { runningChan with cmr := 0xB, disreq := true } |>.boundary 1) =
      State.reset.setChan 1 { runningChan with cmr := 0xB, disreq := true } := by decide
/-- F5 and F8: a write while busy, and STATUS of a running DISABLE. -/
theorem test_host_while_busy :
    (((started ch0Running 0 0 0 [1]).hostAccess (.write 0x40098004 4 7)).fault,
      ((started ch0Running 0 0 0 [1]).hostAccess (.read 0x40098010 4)).readback) =
      (some (.hostProtocol .writeWhileBusy), some 0x80000000) := by decide
/-- F9, F10 and F11. -/
theorem test_host_accesses :
    (State.reset.hostAccess (.write 0x40098001 1 7)).fault = some (.hostProtocol .badAccess) ∧
    (State.reset.hostAccess (.read 0x40098014 4)).fault = some (.hostProtocol .badAccess) ∧
    State.reset.hostAccess (.write 0x4009800C 4 7) = State.reset := by decide
/-- P1 line 2: the placed ENABLE runs at the next step. -/
theorem test_placed_word_runs :
    (nextOf (step (State.reset.withFetchWord 32 0x0C000001))).map State.srWord = some 1 := by decide
/-- Section 2.6: the placed word 0 finishes with ERR_ILLEGAL. -/
theorem test_placed_zero_is_illegal :
    (nextOf (step (State.reset.withFetchWord 32 0))).map (fun t => (t.busy, t.err)) = some (false, .illegal) := by decide
/-- S1 and the row of 1000 Hz of section 2.4. -/
theorem test_searches :
    localSearch 84000000 1000 1 = some (1, 42000) ∧ localSearch 84000000 1000 2 = some (0, 42000) ∧
    localSearch 84000000 1 1 = none ∧ sharedSearch 84000000 1000 = some (9, 164) ∧
    sharedSearch 84000000 320 = none ∧ sharedSearch 84000000 321 = some (10, 255) := by decide

/-! ### Witnesses: concrete states and operands that meet the hypotheses of each obligation, clause by clause -/

/-- Channel 0 enabled with a disable pending. -/
def pendingDisable : State := State.reset.setChan 0 { runningChan with disreq := true }

/-- P4a in its hang: RESETP waits for channel 1, whose clock A is off. -/
def hung : State :=
  started (State.reset.setChan 1 { runningChan with cmr := 0xB, disreq := true }) 0x10000002 0 0 [2]

/-- The agents in turn: the sequencer, each channel, and the host polling STATUS. -/
def roundRobin : Schedule := fun n =>
  if n % 10 = 0 then .sequencer
  else if n % 10 = 9 then .host (.read (Config.defaultParams.ctrlBase + 0x10#32) 4)
  else .boundary (Fin.ofNat 8 (n % 10 - 1))

theorem roundRobin_hostPassive : HostPassive Config.defaultParams roundRobin := by
  intro n
  unfold roundRobin
  split
  · exact .inl rfl
  · split
    · exact .inr (.inr (.inr ⟨_, rfl, .inl ⟨0x10#32, by decide, rfl⟩⟩))
    · exact .inr (.inl ⟨_, rfl⟩)

theorem roundRobin_sequencerFair : SequencerFair roundRobin := by
  intro n
  exact ⟨10 * n, by omega, by simp [roundRobin]⟩

theorem roundRobin_weaklyFair (s : State) : WeaklyFair roundRobin s := by
  intro c n _
  have hc := c.isLt
  refine ⟨10 * n + (c.val + 1), by omega, ?_⟩
  have h1 : (10 * n + (c.val + 1)) % 10 = c.val + 1 := by omega
  have h2 : c.val ≠ 8 := by omega
  simp [roundRobin, h1, h2]

theorem witness_DecodeReadsBackEveryEncodedCommand :
    (Instr.initc 7 .center .inverted true 3).wellFormed = true ∧ (Instr.setf 0x3FF).wellFormed = true := by decide
theorem witness_DecodedWordIsItsCommandsWord :
    decode 0x0BE00007 = .ok (.initc 7 .center .inverted true 3) ∧ decode 0x580003FF = .ok (.getf 0x3FF) := by decide
theorem witness_StepRunsTheDecodedCommand :
    (started State.reset 0x14000002 0 0 []).fault = none ∧ (started State.reset 0x14000002 0 0 []).script = [] ∧
    decode 0x14000002 = .ok (.isen 2) ∧
    (started { State.reset with script := [.sequencer] } 0x14000002 0 0 []).script = .sequencer :: [] ∧
    (started { State.reset with script := [.await] } 0x14000002 0 0 []).script = .await :: [] := by decide
theorem witness_IllegalWordFinishesWithErrIllegal :
    (started State.reset 0 0 0 []).fault = none ∧ decode 0 = .error .unassignedOpcode := by decide
theorem witness_FaultMarkStopsEveryAgent :
    State.reset.fault = none ∧
    (State.reset.raise (.hostProtocol .badAccess)).fault = some (.hostProtocol .badAccess) := by decide
theorem witness_EveryStepKeepsHiddenInvariant :
    pendingDisable.Inv ∧ nextOf (step { pendingDisable with script := [.boundary 0] }) =
      some (State.reset.setChan 0 { runningChan with en := false }) := by
  constructor
  · intro c
    by_cases h : c = 0
    · subst h; exact .inl rfl
    · rw [pendingDisable, State.setChan_chan_of_ne _ _ _ _ h]
      exact .inr (by simp)
  · decide
theorem witness_SrReportsEnabledChannels :
    (pendingDisable.chan 0).en = true ∧ (pendingDisable.chan 0).disreq = true := by decide
theorem witness_StorageRegistersKeepAllBits : (Reg.dtupd 7).stores = true ∧ Reg.clk.stores = true := by decide
theorem witness_EnaWriteEnablesNamedChannels :
    (0x81 : Word).getLsbD 0 = true ∧ (0x81 : Word).getLsbD 7 = true ∧ (State.reset.chan 7).en = false ∧
    (pendingDisable.chan 0).en = true ∧ (pendingDisable.chan 0).disreq = true ∧
    (∀ d : Channel, (0x181 : Word).getLsbD d.val = (0x81 : Word).getLsbD d.val) := by decide
theorem witness_DisWriteRequestsNamedDisables :
    (1 : Word).getLsbD 0 = true ∧ (ch0Running.chan 0).en = true ∧ (State.reset.chan 0).en = false ∧
    (1 : Word).getLsbD 7 = false ∧ (∀ d : Channel, (0x101 : Word).getLsbD d.val = (1 : Word).getLsbD d.val) := by decide
theorem witness_ShadowWritesArmTransfers :
    (ch0Running.chan 0).en = true ∧ (ch0Running.chan 7).en = false := by decide
theorem witness_DirectWriteWhileEnabledFaults :
    (started ch0Running 0x54000083 0xFFFF 1 [42000]).At 0x54000083 0xFFFF 1 [42000] ∧ (0xFFFF : Word) ≠ 0 ∧
    regOfWord 0x83 = some (.cprd 0) ∧ (Reg.cprd 0).direct = some (0, .cprd) ∧ (ch0Running.chan 0).en = true ∧
    (started ch0Running 0x54000083 0xFFFF 1 [42000]).fault = none ∧
    regOfWord 0x81 = some (.cdty 0) ∧ regOfWord 0x86 = some (.dt 0) := ⟨rfl, by decide⟩
theorem witness_BoundaryTransfersThenDisables :
    ch0Running.fault = none ∧ (ch0Running.chan 0).en = true ∧ ch0Running.channelClock 0 ≠ .off ∧
    (ch0Running.chan 1).en = false ∧ hung.channelClock 1 = .off := by decide
theorem witness_ShadowWriteAfterDisableIsLost :
    (started State.reset 0 100 0 [1, 0]).At 0 100 0 [1, 0] ∧ (1 : Word).getLsbD 0 = true ∧
    (State.reset.chan 0).en = false ∧ (State.reset.chan 0).pendPrd = false ∧
    (State.reset.chan 0).pendDty = false := ⟨rfl, by decide⟩
/-- CMRc values of each clause, at selectors 10, 11, 12, 13 and 15, with DIV 0 and 1 and PRE 10 and 11. -/
theorem witness_ChannelClockFollowsSelector :
    (10 : Word).toNat % 16 ≤ 10 ∧ (11 : Word).toNat % 16 = 11 ∧ (12 : Word).toNat % 16 = 12 ∧
    13 ≤ (13 : Word).toNat % 16 ∧ 13 ≤ (15 : Word).toNat % 16 ∧
    (0xA01 : Word).toNat % 256 = 1 ∧ (0xA01 : Word).toNat / 2 ^ 8 % 16 = 10 ∧
    (0xB01 : Word).toNat / 2 ^ 8 % 16 = 11 ∧ (0xB00 : Word).toNat % 256 = 0 ∧
    (0xA010000 : Word).toNat / 2 ^ 16 % 256 = 1 ∧ (0xA010000 : Word).toNat / 2 ^ 24 % 16 = 10 ∧
    (0xB010000 : Word).toNat / 2 ^ 24 % 16 = 11 ∧ (0xB000000 : Word).toNat / 2 ^ 16 % 256 = 0 := by decide
theorem witness_OutputFrequencyIsClockOverPeriod :
    (ch0Running.chan 0).en = true ∧ ch0Running.channelClock 0 = .running 2 ∧
    1 ≤ (ch0Running.chan 0).cprd.toNat % 65536 ∧ (ch0Running.chan 1).en = false ∧
    (State.reset.chan 0).cprd.toNat % 65536 = 0 ∧ hung.channelClock 1 = .off ∧
    (State.reset.setChan 0 { runningChan with cmr := 13 }).channelClock 0 = .unspecified := by decide
theorem witness_HostAccessesFollowInteractionTable :
    State.reset.fault = none ∧ State.reset.phase = .idle ∧ hung.fault = none := by decide
theorem witness_HostBreachesFault :
    State.reset.fault = none ∧ (0x40098014 : Word) = State.reset.params.ctrlBase + BitVec.ofNat 32 0x14 ∧
    (0x14 : Nat) ∉ [0x00, 0x04, 0x08, 0x0C, 0x10] ∧ (1 : Nat) ≠ 4 ∧ hung.fault = none ∧ hung.phase ≠ .idle ∧
    (0x40098008 : Word) = hung.params.ctrlBase + BitVec.ofNat 32 0x08 ∧ (0x08 : Nat) ∈ [0x00, 0x04, 0x08] := by decide
theorem witness_ShiftIsLowestOrTopmostSetBit : (0x80000001 : Word) ≠ 0 := by decide
theorem witness_FieldRoundTripHoldsUnderLowest :
    1 ≤ 4 ∧ 28 + 4 ≤ 32 ∧ (0xF : Word).toNat < 2 ^ 4 ∧ (31 < 28 ∨ 28 + 4 ≤ 32) ∧ 1 ≤ 1 ∧ 31 + 1 ≤ 32 ∧
    (1 : Word).toNat < 2 := by decide
theorem witness_SetfCompletes :
    (started State.reset 0 0xF 5 []).At 0 0xF 5 [] ∧ (0xF : Word) ≠ 0 ∧ regOfWord 0x83 = some (.cprd 0) ∧
    (∀ c d, (Reg.cprd 0).direct = some (c, d) → ((started State.reset 0 0xF 5 []).chan c).en = false) :=
  ⟨rfl, by decide, by decide, fun c _ _ => congrArg Chan.en (State.reset_chan c)⟩
theorem witness_GetfCompletes :
    (started State.reset 0 0xFFFF 0 []).At 0 0xFFFF 0 [] ∧ (0xFFFF : Word) ≠ 0 ∧
    regOfWord 0xBF = some (.dtupd 7) := ⟨rfl, by decide⟩
theorem witness_AccessorRefusalsPrecedeAnyAccess :
    (started State.reset 0 0 5 []).At 0 0 5 [] ∧ regOfWord 0x85 = none ∧ regOfWord 0x3FF = none ∧
    regOfWord 0x80 = some (.cmr 0) := ⟨rfl, by decide⟩
theorem witness_FullMaskSetfOfEnaIgnoresTheDraw :
    (started State.reset 0 0xFFFFFFFF 3 []).At 0 0xFFFFFFFF 3 [] ∧ State.reset.params.shiftRule = .lowest ∧
    (∀ c, (State.reset.chan c).disreq = false) := ⟨rfl, rfl, by decide⟩
/-- A command at its start, for the obligations whose only hypothesis on the state is that: ClockCommandsComplete,
EnableCompletes, ReadersComplete, AlignmentAndPolarityComplete and SelectorCompletes. -/
theorem witness_commandAtItsStart : (started ch0Running 0x34000000 0x9A4 0 []).At 0x34000000 0x9A4 0 [] := rfl
theorem witness_UnrecognizedClockIsRefused :
    (started State.reset 0 1000 0 []).At 0 1000 0 [] ∧ 2 ≤ (2 : BitVec 2).toNat ∧ 2 ≤ (3 : BitVec 2).toNat :=
  ⟨rfl, by decide⟩
/-- Both clocks, neither, and each alone. -/
theorem witness_InitpCompletes :
    (started State.reset 0x04000000 0x0A0509A4 0 []).At 0x04000000 0x0A0509A4 0 [] ∧
    (0x0A0509A4 : Word) &&& 0xFF ≠ 0 ∧ (0x0A0509A4 : Word) &&& 0x00FF0000 ≠ 0 ∧ (0xF000F000 : Word) &&& 0xFF = 0 ∧
    (0xF000F000 : Word) &&& 0x00FF0000 = 0 := ⟨rfl, by decide⟩
theorem witness_ResetpZeroesTheBlock :
    (started State.reset 0x40000000 0 0 []).At 0x40000000 0 0 [] ∧
    (∀ c, ((started State.reset 0x40000000 0 0 []).chan c).Quiet) := by
  refine ⟨rfl, fun c => ?_⟩
  show (State.reset.chan c).Quiet
  simp [Chan.Quiet]
/-- RESETP at its start, at channel 7's DIS write, in its wait while enabled and when disabled, and at its end. -/
theorem witness_ResetpZeroesTheBlock_enabled :
    (started State.reset 0x40000000 0 0 (List.replicate 114 0)).At 0x40000000 0 0 (List.replicate 114 0) ∧
    (List.replicate 114 (0 : Word)).length = 2 + 16 * (7 : Channel).val ∧
    (List.replicate 3 (0 : Word)).length = 3 + 16 * (0 : Channel).val ∧
    (List.replicate 115 (0 : Word)).length = 3 + 16 * (7 : Channel).val ∧
    (List.replicate 130 (0 : Word)).length = 130 ∧ (ch0Running.chan 0).en = true ∧ (ch0Running.chan 7).en = false := by
  simp only [List.length_replicate]
  exact ⟨rfl, by decide⟩
theorem witness_DisableOfDisabledChannelsCompletes :
    (started ch0Running 0 0 0 []).At 0 0 0 [] ∧
    (∀ c : Channel, (0xFE : BitVec 8).getLsbD c.val = true → ((started ch0Running 0 0 0 []).chan c).en = false) :=
  ⟨rfl, by decide⟩
theorem witness_DisableWaitsForEveryNamedChannel :
    (started ch0Running 0 0 0 [1]).At 0 0 0 [1] ∧
    (∃ c : Channel, (5 : BitVec 8).getLsbD c.val = true ∧ ((started ch0Running 0 0 0 [1]).chan c).en = true) ∧
    (∀ c : Channel, (0xFE : BitVec 8).getLsbD c.val = true → ((started ch0Running 0 0 0 [1]).chan c).en = false) :=
  ⟨rfl, ⟨0, by decide⟩, by decide⟩
theorem witness_PeriodAndDutyComplete :
    (started ch0Running 0 100 0 []).At 0 100 0 [] ∧ ((started ch0Running 0 100 0 []).chan 0).en = true ∧
    ((started ch0Running 0 100 0 []).chan 7).en = false := ⟨rfl, by decide⟩
theorem witness_ResetcZeroesTheChannel :
    (started ch0Running 0 0 0 []).At 0 0 0 [] ∧ ((started ch0Running 0 0 0 []).chan 4).Quiet := by
  refine ⟨rfl, ?_⟩
  unfold Chan.Quiet
  decide
/-- RESETC, INITC, SETFREQ and SETCLKF of an enabled channel: at the start, in the wait while the channel is enabled, and
behind it, with the SR bit read as 1. -/
theorem witness_enabledChannel :
    (started ch0Running 0 1000 21000 []).At 0 1000 21000 [] ∧ ((started ch0Running 0 1000 21000 []).chan 0).en = true ∧
    (started ch0Running 0 1000 21000 [1]).At 0 1000 21000 [1] ∧
    (started ch0Running 0 1000 21000 [1, 1]).At 0 1000 21000 [1, 1] ∧
    (started ch0Running 0 1000 21000 [1, 1, 1]).At 0 1000 21000 [1, 1, 1] ∧ (1 : Word).getLsbD 0 = true ∧
    ((started State.reset 0 1000 21000 [1, 1, 1]).chan 0).en = false ∧
    ((started ch0Running 0 1000 21000 []).chan 0).cmr = 1 ∧ (1 : Word).getLsbD 8 = false ∧
    (0 : BitVec 2).toNat ≤ 1 ∧ (1 : BitVec 2).toNat ≤ 1 := ⟨rfl, by decide, rfl, rfl, rfl, by decide⟩
/-- SETFREQ and INITC's local path at 1000 Hz (S1): index 1, period 42000. -/
theorem witness_localCompletion :
    (started State.reset 0 1000 21000 []).At 0 1000 21000 [] ∧ ((started State.reset 0 1000 21000 []).chan 0).en = false ∧
    (1000 : Word).toNat ≠ 0 ∧ (1000 : Word).toNat ≤ (84000000 : Word).toNat ∧
    FirstInRange (fun j => 84000000 / (1000 * 2 ^ j * 1)) 65535 1 ∧ 42000 = 84000000 / (1000 * 2 ^ 1 * 1) := by
  unfold FirstInRange
  exact ⟨rfl, by decide⟩
/-- SETCLKF and INITC's shared path at 1000 Hz (P3): index 9, divisor 164. -/
theorem witness_sharedCompletion :
    FirstInRange (fun j => 84000000 / 2 ^ j / 1000) 255 9 ∧ 164 = 84000000 / 2 ^ 9 / 1000 := by
  unfold FirstInRange
  decide
/-- 0 Hz and F + 1; 1 Hz Left and shared (exhausted); F Center (zero period). -/
theorem witness_ResolverErrorsWriteNothing :
    (0 : Word).toNat = 0 ∧ (84000000 : Word).toNat < (84000001 : Word).toNat ∧
    (∀ i, i ≤ 10 → 65535 < 84000000 / (1 * 2 ^ i * 1)) ∧ 84000000 < 84000000 * 2 ∧
    (∀ i, i ≤ 10 → 255 < 84000000 / 2 ^ i / 320) := by decide
theorem witness_LocalSearchLaws :
    localSearch 84000000 1000 1 = some (1, 42000) ∧ localSearch 84000000 84000000 2 = some (0, 0) ∧
    localSearch 84000000 1282 1 = some (0, 65522) := by decide
theorem witness_SharedSearchLaws : sharedSearch 84000000 321 = some (10, 255) := by decide
/-- A step of a command of each frame obligation answers a next state. -/
theorem witness_frames :
    ∀ i ∈ [Instr.isen 0, .getf 1, .setalg 0, .setpol 0, .setpre 0, .setper 0, .setdty 0, .initp, .setclk 0, .clkoff 1,
      .enable 1, .disable 1, .setfreq 0, .setclkf 0 1, .initc 0 .left .normal false 0, .resetc 0, .setf 0x83],
      (nextOf (exec i (started ch0Running 0 1000 1 []))).isSome = true := by decide
/-- Naming a register, none, and another register. -/
theorem witness_SetfFrame :
    regOfWord 0x83 = some (.cprd 0) ∧ regOfWord 0x83 ≠ some .ena ∧ regOfWord 0x83 ≠ some .dis ∧
    regOfWord 0x85 = none := by decide
/-- Idle with a boundary still to come is an end (70_reset_and_hazards R425), with a host move it is not. -/
theorem test_final :
    ({ ch0Running with script := [.boundary 0] } : State).Final ∧ ¬({ ch0Running with script := [.await] } : State).Final := by
  simp [State.Final, Move.isHost, ch0Running, State.reset]
theorem witness_OnlyBoundariesDisable :
    nextOf (stepMove (.boundary 0) pendingDisable) = some (State.reset.setChan 0 { runningChan with en := false }) ∧
    (pendingDisable.chan 0).en = true ∧ ((State.reset.setChan 0 { runningChan with en := false }).chan 0).en = false := by
  decide
theorem witness_ClockOffHangNeverEnds : hung.Hangs 1 :=
  ⟨2, ⟨_, .disable 2, .finish .ok 0, rfl, by decide, rfl⟩, by decide, by decide, by decide⟩
theorem witness_OnlySetfFaultsOnDirectWrites :
    (started ch0Running 0x24000000 100 0 []).fault = none ∧ decode 0x24000000 = .ok (.setper 0) ∧
    (∀ regw, Instr.setper 0 ≠ .setf regw) ∧ HostPassive Config.defaultParams roundRobin :=
  ⟨rfl, by decide, (fun _ => by simp), roundRobin_hostPassive⟩
theorem witness_ResolverCommandsRestoreEnabledState :
    (started ch0Running 0x2C000000 2000 0 []).fault = none ∧ decode 0x2C000000 = .ok (.setfreq 0) ∧
    ((started ch0Running 0x2C000000 2000 0 []).chan 0).disreq = false ∧ HostPassive Config.defaultParams roundRobin :=
  ⟨rfl, by decide, by decide, roundRobin_hostPassive⟩
theorem witness_FairRunsEndDisable :
    (started pendingDisable 0x10000001 0 0 [1]).fault = none ∧
    (started pendingDisable 0x10000001 0 0 [1]).At 0x10000001 0 0 [1] ∧ decode 0x10000001 = .ok (.disable 1) ∧
    (∀ c : Channel, (1 : BitVec 8).getLsbD c.val = true → ((started pendingDisable 0x10000001 0 0 [1]).chan c).en = true →
      ((started pendingDisable 0x10000001 0 0 [1]).chan c).disreq = true ∧
      (started pendingDisable 0x10000001 0 0 [1]).boundaryFair c = true) ∧
    HostPassive Config.defaultParams roundRobin ∧ SequencerFair roundRobin ∧ WeaklyFair roundRobin (started pendingDisable 0x10000001 0 0 [1]) :=
  ⟨rfl, rfl, by decide, by decide, roundRobin_hostPassive, roundRobin_sequencerFair, roundRobin_weaklyFair _⟩

end Sys2Proof.Tests
end

section
/-! PROOFS. The register map: which register an offset names (10_state R22, R35). -/

namespace Sys2Proof.Machine

/-! ### The register map (10_state R22, R35) -/

/-- At 0x200 and above the channel blocks alone decide the register. -/
theorem regAt_of_ge {off : Nat} (h : 0x200 ≤ off) :
    regAt off = if off < 0x300 then channelSlot (Fin.ofNat 8 ((off - 0x200) / 0x20)) ((off - 0x200) % 0x20) else none := by
  unfold regAt
  split
  case h_5 => simp [h]
  all_goals omega

/-- Inside a channel's block the slot alone decides the register. -/
theorem regAt_channelBase_add (c : Channel) {n : Nat} (hn : n < 0x20) : regAt (channelBase c + n) = channelSlot c n := by
  have hc := c.isLt
  have hbase : channelBase c = 0x200 + 0x20 * c.val := rfl
  have hblock : Fin.ofNat 8 ((channelBase c + n - 0x200) / 0x20) = c := Fin.ext (by simp only [Fin.val_ofNat]; omega)
  have hslot : (channelBase c + n - 0x200) % 0x20 = n := by omega
  rw [regAt_of_ge (by omega), if_pos (by omega), hblock, hslot]

/-- A register of a channel's block lies at its slot. -/
theorem offset_of_channelSlot {c : Channel} {n : Nat} {r : Reg} (h : channelSlot c n = some r) :
    r.offset = channelBase c + n := by
  unfold channelSlot at h
  split at h <;> cases h <;> rfl

theorem regAt_offset (r : Reg) : regAt r.offset = some r := by
  cases r with
  | clk | ena | dis | sr => rfl
  | _ c => exact regAt_channelBase_add c (by decide)

theorem offset_of_regAt {off : Nat} {r : Reg} (h : regAt off = some r) : r.offset = off := by
  by_cases hoff : 0x200 ≤ off
  · rw [regAt_of_ge hoff] at h
    split at h
    · next hlt =>
      have hbase := offset_of_channelSlot h
      simp only [channelBase, Fin.val_ofNat] at hbase
      omega
    · cases h
  · unfold regAt at h
    split at h
    case h_5 => rw [if_neg (fun hr => hoff hr.1)] at h; cases h
    all_goals cases h; rfl

/-- Settles O26: inside a block the slot decides, and below 0x200 there are four registers. -/
theorem registerMapIsExact : Obligations.RegisterMapIsExact :=
  ⟨regAt_offset, fun _ _ => offset_of_regAt, fun c => ⟨rfl, regAt_channelBase_add c (by decide)⟩⟩

end Sys2Proof.Machine
end

section
/-! PROOFS. What a step of any agent can do, and what it does to the channels: the hidden-state invariant (10_state R39)
and the enabled bits (R37). -/

namespace Sys2Proof.Machine

/-! ### What one step of any agent can do (20_memory R63) -/

/-- The outcomes of a fault-free step, agent by agent. -/
theorem stepMove_cases {m : Move} {s t : State} (h : stepMove m s = .next t) :
    (∃ a, m = .host a ∧ t = s.hostAccess a) ∨ (∃ c, m = .boundary c ∧ t = s.boundary c) ∨
      (m = .await ∧ t = s.pollStatus) ∨ sequencerStep s = .next t := by
  unfold stepMove at h
  split at h
  · cases h
  · cases m with
    | sequencer => exact .inr (.inr (.inr h))
    | host a => cases h; exact .inl ⟨a, rfl, rfl⟩
    | boundary c => cases h; exact .inr (.inl ⟨c, rfl, rfl⟩)
    | await =>
      dsimp only at h
      unfold awaitStep at h
      split at h
      · exact .inr (.inr (.inr h))
      · cases h; exact .inr (.inr (.inl ⟨rfl, rfl⟩))

/-- The outcomes of the sequencer's step: nothing when idle, a finish on an illegal word, else the command's access. -/
theorem sequencerStep_cases {s t : State} (h : sequencerStep s = .next t) :
    (s.phase = .idle ∧ t = s) ∨ t = s.finish .illegal 0 ∨
      ∃ l i, s.phase = .running l ∧ decode l.cmd = .ok i ∧ exec i s = .next t := by
  unfold sequencerStep at h
  split at h
  · next hp => cases h; exact .inl ⟨hp, rfl⟩
  · next l hp =>
    split at h
    · next i hd => exact .inr (.inr ⟨l, i, hp, hd, h⟩)
    · cases h; exact .inr (.inl rfl)

/-- A step of the machine is a step of some agent, but for what it takes from the script (log entry 2). -/
theorem step_eq_stepMove (s : State) : ∃ m ms, step s = stepMove m { s with script := ms } := by
  unfold step scheduledStep
  split
  · exact ⟨.sequencer, s.script, rfl⟩
  · next m rest _ =>
    unfold State.popScript
    split
    · exact ⟨m, s.script, rfl⟩
    · exact ⟨m, rest, rfl⟩

/-! ### What a step does to the channels -/

/-- No host access touches a channel (60_exceptions R313). -/
@[simp] theorem State.hostAccess_chans (s : State) (a : HostAccess) : (s.hostAccess a).chans = s.chans := by
  have hbusy : ∀ t : State, t.chans = s.chans → (s.unlessBusy t).chans = s.chans := by
    intro t ht
    unfold State.unlessBusy
    split
    · rfl
    · exact ht
  cases a with
  | read addr width =>
    unfold State.hostAccess
    dsimp only
    split <;> rfl
  | write addr width v =>
    unfold State.hostAccess
    dsimp only
    split
    · rfl
    · next r _ =>
      cases r with
      | cmd | arg0 | arg1 => exact hbusy _ rfl
      | result | status => rfl

/-- One access of a command leaves the channels or stores one word in a register. -/
theorem Prog.act_chans (p : Prog) (s : State) :
    (p.act s).chans = s.chans ∨ ∃ r v, (p.act s).chans = (s.storeReg v r).chans := by
  cases p with
  | finish e r => exact .inl rfl
  | read r k => exact .inl (s.afterRead_frame r).2.1
  | write r v k =>
    dsimp only [Prog.act]
    cases hf : s.directFault r with
    | some f => exact .inl (by rw [State.writeStep_of_fault hf, State.raise_chans])
    | none => exact .inr ⟨r, v, by rw [State.writeStep_of_ok hf, State.reply_chans]⟩
  | waitClear m k =>
    dsimp only [Prog.act]
    unfold State.waitStep
    split <;> exact .inl rfl

/-- A boundary changes the channels alone (10_state R45). -/
theorem State.boundary_frame (s : State) (c : Channel) : s.boundary c = { s with chans := (s.boundary c).chans } := by
  unfold State.boundary
  split <;> rfl

/-- A step leaves the channels, stores one word in a register, or is a channel's boundary. -/
theorem stepMove_chans {m : Move} {s t : State} (h : stepMove m s = .next t) :
    t.chans = s.chans ∨ (∃ r v, t.chans = (s.storeReg v r).chans) ∨ ∃ c, m = .boundary c ∧ t = s.boundary c := by
  rcases stepMove_cases h with ⟨a, -, rfl⟩ | hb | ⟨-, rfl⟩ | hseq
  · exact .inl (s.hostAccess_chans a)
  · exact .inr (.inr hb)
  · exact .inl rfl
  · rcases sequencerStep_cases hseq with ⟨-, rfl⟩ | rfl | ⟨l, i, -, -, he⟩
    · exact .inl rfl
    · exact .inl rfl
    · rcases exec_inv he with ⟨-, rfl⟩ | ⟨p, -, rfl⟩
      · exact .inl rfl
      · exact (p.act_chans s).imp_right .inl

/-- Equal channels are equal channel by channel. -/
theorem State.chan_congr {s t : State} (h : t.chans = s.chans) (c : Channel) : t.chan c = s.chan c := by
  simp only [State.chan, h]

/-! ### The hidden-state invariant (10_state R39) -/

theorem State.Inv.of_chans {s t : State} (hs : s.Inv) (h : t.chans = s.chans) : t.Inv := fun c =>
  State.chan_congr h c ▸ hs c

/-- A period boundary keeps R39: the disable it makes comes after the transfers (10_state R45). -/
theorem State.Inv.boundary {s : State} (h : s.Inv) (c : Channel) : (s.boundary c).Inv := by
  unfold State.boundary
  split
  · intro d
    by_cases hd : d = c
    · subst hd
      rw [State.setChan_chan_self]
      exact (h d).atBoundary
    · rw [State.setChan_chan_of_ne _ _ _ _ hd]
      exact h d
  · exact h

theorem State.Inv.of_stepMove {m : Move} {s t : State} (hs : s.Inv) (h : stepMove m s = .next t) : t.Inv := by
  rcases stepMove_chans h with hc | ⟨r, v, hc⟩ | ⟨c, -, rfl⟩
  · exact hs.of_chans hc
  · exact (hs.storeReg v r).of_chans hc
  · exact hs.boundary c

/-- Settles O10: a step of the machine is an agent's, and register writes and boundaries are all that reach a channel. -/
theorem everyStepKeepsHiddenInvariant : Obligations.EveryStepKeepsHiddenInvariant := by
  intro s t hs h
  obtain ⟨m, ms, hm⟩ := step_eq_stepMove s
  exact (hs.of_chans (t := { s with script := ms }) rfl).of_stepMove (hm ▸ h)

/-- Settles O9: every hidden bit is 0 at reset. -/
theorem resetMeetsHiddenInvariant : Obligations.ResetMeetsHiddenInvariant := by
  intro c
  rw [State.reset_chan]
  exact .inr ⟨rfl, rfl, rfl, rfl⟩

/-! ### Enabled bits (10_state R37) -/

/-- Of all register writes only those of ENA change an enabled bit, and they set it (10_state R24, R37). -/
theorem State.storeReg_chan_en (s : State) (v : Word) (r : Reg) (d : Channel) :
    ((s.storeReg v r).chan d).en = ((s.chan d).en || (decide (r = .ena) && chBit v d)) := by
  cases r with
  | clk | ena | dis | sr => simp [State.storeReg]
  | _ c =>
    simp only [State.storeReg]
    by_cases hd : d = c
    · subst hd
      simp [Chan.writePrdShadow, Chan.writeDtyShadow, Chan.writeDtShadow]
    · simp [State.setChan_chan_of_ne _ _ _ _ hd]

/-- The boundaries R46 (a) admits. -/
theorem State.boundaryAdmitted_iff {s : State} {c : Channel} :
    s.boundaryAdmitted c = true ↔ (s.chan c).en = true ∧ s.channelClock c ≠ .off := by
  simp [State.boundaryAdmitted]

/-- A boundary clears the enabled bit of its own channel, when admitted and requested, and no other (10_state R45). -/
theorem State.boundary_chan_en (s : State) (c d : Channel) :
    ((s.boundary c).chan d).en =
      ((s.chan d).en && !(decide (d = c) && s.boundaryAdmitted c && (s.chan d).disreq)) := by
  unfold State.boundary
  split
  · next hadm =>
    by_cases hd : d = c
    · subst hd
      simp [hadm]
    · simp [State.setChan_chan_of_ne _ _ _ _ hd, hd]
  · next hadm => simp [hadm]

/-- Settles O56: no register write clears an enabled bit, so it was a boundary that did. -/
theorem onlyBoundariesDisable : Obligations.OnlyBoundariesDisable := by
  intro m s t c h hen hdis
  rcases stepMove_chans h with hc | ⟨r, v, hc⟩ | ⟨b, rfl, rfl⟩
  · rw [State.chan_congr hc, hen] at hdis
    cases hdis
  · rw [State.chan_congr hc, State.storeReg_chan_en, hen] at hdis
    cases hdis
  · simp only [State.boundary_chan_en, hen, Bool.true_and, Bool.not_eq_false', Bool.and_eq_true, decide_eq_true_eq] at hdis
    obtain ⟨⟨rfl, hadm⟩, hreq⟩ := hdis
    exact ⟨rfl, hreq, (State.boundaryAdmitted_iff.1 hadm).2⟩

end Sys2Proof.Machine
end

section
/-! PROOFS. The state after reset, register reads and writes, the period boundary, the channel clock, the output frequency
and STATUS (10_state R24 to R49). -/

namespace Sys2Proof.Machine

/-! ### The state after reset (10_state R49) -/

/-- Settles O8: every register and hidden bit of the reset state is written out as 0. -/
theorem resetLeavesEverythingZero : Obligations.ResetLeavesEverythingZero :=
  ⟨rfl, State.reset_chan, by decide, rfl, rfl, rfl, rfl, by decide, rfl, rfl, rfl, 0, rfl, rfl⟩

/-! ### Register reads and writes (10_state R24 to R36) -/

/-- Settles O11: SR is the flag word of the enabled bits. -/
theorem srReportsEnabledChannels : Obligations.SrReportsEnabledChannels := by
  intro s
  have hbit : ∀ c : Channel, s.srWord.getLsbD c.val = (s.chan c).en := chBit_srWord s
  exact ⟨hbit, flagWord_getLsbD_high _, rfl, fun c hen _ => (hbit c).trans hen, fun _ => rfl⟩

/-- A storage register reads back what was written to it (10_state R36). -/
theorem State.regValue_storeReg (s : State) (v : Word) {r : Reg} (h : r.stores = true) :
    (s.storeReg v r).regValue r = v := by
  cases r with
  | clk => rfl
  | ena | dis | sr => cases h
  | _ c =>
    simp [State.storeReg, State.regValue, Chan.writePrdShadow, Chan.writeDtyShadow, Chan.writeDtShadow]

/-- Settles O12: a storage register is neither ENA nor DIS, the two whose read is a draw. -/
theorem storageRegistersKeepAllBits : Obligations.StorageRegistersKeepAllBits := by
  intro s v r hr
  refine ⟨s.regValue_storeReg v hr, s.afterRead_eq r ⟨?_, ?_⟩⟩
  · rintro rfl
    cases hr
  · rintro rfl
    cases hr

theorem State.mapChans_congr (s : State) {f g : Channel → Chan → Chan} (h : ∀ c ch, f c ch = g c ch) :
    s.mapChans f = s.mapChans g := by
  rw [funext₂ h]

/-- Settles O13: channel `c` after the write is `enableAct` of its bit, whose branches are R24's. -/
theorem enaWriteEnablesNamedChannels : Obligations.EnaWriteEnablesNamedChannels := by
  intro s v c
  have hchan : (s.storeReg v .ena).chan c = (s.chan c).enableAct (v.getLsbD c.val) (chBit s.drawn c) :=
    s.writeEna_chan v c
  rw [hchan]
  refine ⟨?_, fun hv hen => ?_, fun hv hen hreq => ?_, fun v' hv' => ?_, rfl⟩
  · cases hv : v.getLsbD c.val with
    | false => exact .inl rfl
    | true =>
      cases hen : (s.chan c).en with
      | false => exact .inr ⟨rfl, .inl rfl⟩
      | true =>
        cases hreq : (s.chan c).disreq with
        | false => exact .inl (by simp [Chan.enableAct, hen, hreq])
        | true => exact .inr ⟨rfl, .inr ⟨rfl, rfl⟩⟩
  · simp [Chan.enableAct, hv, hen]
  · cases hdraw : chBit s.drawn c <;> simp [Chan.enableAct, hv, hen, hreq]
  · exact congrArg State.tick (s.mapChans_congr fun d ch => by rw [show chBit v' d = chBit v d from hv' d])

/-- Settles O14: channel `c` after the write is `disableAct` of its bit, whose branches are R25's. -/
theorem disWriteRequestsNamedDisables : Obligations.DisWriteRequestsNamedDisables := by
  intro s v c
  have hchan : (s.storeReg v .dis).chan c = (s.chan c).disableAct (v.getLsbD c.val) := s.writeDis_chan v c
  rw [hchan]
  refine ⟨fun hv hen => ?_, fun hv hen => ?_, fun hv => ?_, fun v' hv' => ?_, rfl⟩
  · simp [Chan.disableAct, hv, hen]
  · simp [Chan.disableAct, hen]
  · simp [hv]
  · exact s.mapChans_congr fun d ch => by rw [show chBit v' d = chBit v d from hv' d]

/-! ### Shadow writes (10_state R31, R33, R34) -/

theorem State.storeReg_cprdupd_chan (s : State) (v : Word) (c : Channel) :
    (s.storeReg v (.cprdupd c)).chan c = (s.chan c).writePrdShadow v :=
  s.setChan_chan_self c _

theorem State.storeReg_cdtyupd_chan (s : State) (v : Word) (c : Channel) :
    (s.storeReg v (.cdtyupd c)).chan c = (s.chan c).writeDtyShadow v :=
  s.setChan_chan_self c _

theorem State.storeReg_dtupd_chan (s : State) (v : Word) (c : Channel) :
    (s.storeReg v (.dtupd c)).chan c = (s.chan c).writeDtShadow v :=
  s.setChan_chan_self c _

/-- Settles O15: a shadow write sets its pending flag from the enabled bit, and a boundary moves what is pending. -/
theorem shadowWritesArmTransfers : Obligations.ShadowWritesArmTransfers := by
  intro s v c
  simp only [State.storeReg_cprdupd_chan, State.storeReg_cdtyupd_chan, State.storeReg_dtupd_chan]
  refine ⟨fun hen => ?_, fun hen => ?_, s.regValue_storeReg v rfl, s.regValue_storeReg v rfl, s.regValue_storeReg v rfl⟩
  · simp [Chan.writePrdShadow, Chan.writeDtyShadow, Chan.writeDtShadow, hen]
  · simp [Chan.writePrdShadow, Chan.writeDtyShadow, Chan.writeDtShadow, hen]

/-! ### Direct writes (10_state R40) -/

/-- A fault raised where there is none sets the mark and nothing else (60_exceptions R303). -/
theorem State.raise_of_none {s : State} (h : s.fault = none) (f : Fault) : s.raise f = { s with fault := some f } := by
  simp [State.raise, h]

/-- Behind its read SETF stands at the write of the word it computed (40_bitfield R113). -/
theorem stands_setf_write {s : State} {w m v old : Word} {regw : BitVec 10} {r : Reg} (hat : s.At w m v [old])
    (hm : m ≠ 0) (hr : regOfWord regw = some r) :
    Stands (.setf regw) s (.write r (insertField s.params.shiftRule old m v)
      (.finish .ok (BitVec.ofNat 32 (shiftOf s.params.shiftRule m)))) := by
  have hs := stands_of_at (i := .setf regw) hat
  simp only [progOf, progSetf, hr, if_neg hm] at hs
  exact hs

/-- Settles O16: SETF stands at its write, and a direct write to an enabled channel raises its fault instead. -/
theorem directWriteWhileEnabledFaults : Obligations.DirectWriteWhileEnabledFaults := by
  intro s w m v old regw r c d hat hm hr hdirect hen hfault
  have hdf : s.directFault r = some (.directWriteWhileEnabled c d) := by
    rw [State.directFault_eq, hdirect]
    exact if_pos hen
  rw [exec_of_stands (stands_setf_write hat hm hr), Prog.act, State.writeStep_of_fault hdf, State.raise_of_none hfault]

/-! ### The period boundary (10_state R45, R46) -/

/-- The channel its boundary leaves, field by field. -/
theorem Chan.atBoundary_eq (ch : Chan) :
    ch.atBoundary =
      { ch with
        cprd := if ch.pendPrd = true then ch.cprdupd else ch.cprd
        cdty := if ch.pendDty = true then ch.cdtyupd else ch.cdty
        dt := if ch.pendDt = true then ch.dtupd else ch.dt
        pendPrd := false, pendDty := false, pendDt := false
        en := ch.en && !ch.disreq
        disreq := false } := by
  have hframe := ch.atBoundary_frame
  have hprd := ch.atBoundary_cprd
  have hdty := ch.atBoundary_cdty
  have hdt := ch.atBoundary_dt
  have hen := ch.atBoundary_en
  generalize ch.atBoundary = b at *
  cases b
  simp_all

/-- Settles O17: an admitted boundary is `Chan.atBoundary` of its channel, and another does nothing. -/
theorem boundaryTransfersThenDisables : Obligations.BoundaryTransfersThenDisables := by
  intro s c hfault
  have hstep : stepMove (.boundary c) s = .next (s.boundary c) := by rw [stepMove, hfault]
  rw [hstep]
  refine ⟨fun hen hclk => ?_, fun hnot => ?_⟩
  · have hadm : s.boundaryAdmitted c = true := s.boundaryAdmitted_iff.2 ⟨hen, hclk⟩
    rw [State.boundary, if_pos hadm, Chan.atBoundary_eq, hen]
    cases (s.chan c).disreq <;> rfl
  · have hadm : ¬ s.boundaryAdmitted c = true := by
      rw [State.boundaryAdmitted_iff]
      rintro ⟨hen, hclk⟩
      rcases hnot with h | h
      · simp [h] at hen
      · exact hclk h
    rw [State.boundary, if_neg hadm]

/-! ### The channel clock and the output frequency (10_state R44, R47) -/

theorem Chan.selector_eq (ch : Chan) : ch.selector = ch.cmr.toNat % 16 := by
  simp [Chan.selector, BitVec.extractLsb'_toNat]

theorem Chan.period_eq (ch : Chan) : ch.period = ch.cprd.toNat % 65536 := by
  simp [Chan.period, BitVec.extractLsb'_toNat]

theorem Chan.factor_eq (ch : Chan) : ch.factor = if ch.cmr.getLsbD 8 = true then 2 else 1 := by
  unfold Chan.factor Chan.alignment
  cases ch.cmr.getLsbD 8 <;> rfl

theorem clkDiv_a_eq (clk : Word) : clkDiv clk .a = clk.toNat % 256 := by
  simp [clkDiv, BitVec.extractLsb'_toNat]

theorem clkPre_a_eq (clk : Word) : clkPre clk .a = clk.toNat / 2 ^ 8 % 16 := by
  simp [clkPre, BitVec.extractLsb'_toNat, Nat.shiftRight_eq_div_pow]

theorem clkDiv_b_eq (clk : Word) : clkDiv clk .b = clk.toNat / 2 ^ 16 % 256 := by
  simp [clkDiv, BitVec.extractLsb'_toNat, Nat.shiftRight_eq_div_pow]

theorem clkPre_b_eq (clk : Word) : clkPre clk .b = clk.toNat / 2 ^ 24 % 16 := by
  simp [clkPre, BitVec.extractLsb'_toNat, Nat.shiftRight_eq_div_pow]

section
variable {clk : Word} {ck : SharedClock}

theorem sharedClockRate_running (hdiv : 1 ≤ clkDiv clk ck) (hpre : clkPre clk ck ≤ 10) :
    sharedClockRate clk ck = .running (2 ^ clkPre clk ck * clkDiv clk ck) := by
  rw [sharedClockRate, if_neg (by omega), if_pos hpre]

theorem sharedClockRate_off (hdiv : clkDiv clk ck = 0) : sharedClockRate clk ck = .off := by
  rw [sharedClockRate, if_pos hdiv]

theorem sharedClockRate_unspecified (hdiv : 1 ≤ clkDiv clk ck) (hpre : 11 ≤ clkPre clk ck) :
    sharedClockRate clk ck = .unspecified := by
  rw [sharedClockRate, if_neg (by omega), if_neg (by omega)]

end

section
variable {s : State} {c : Channel}

theorem State.channelClock_ladder (h : (s.chan c).selector ≤ 10) :
    s.channelClock c = .running (2 ^ (s.chan c).selector) := by
  simp [State.channelClock, h]

theorem State.channelClock_a (h : (s.chan c).selector = 11) : s.channelClock c = sharedClockRate s.clk .a := by
  simp [State.channelClock, h]

theorem State.channelClock_b (h : (s.chan c).selector = 12) : s.channelClock c = sharedClockRate s.clk .b := by
  simp [State.channelClock, h]

theorem State.channelClock_high (h : 13 ≤ (s.chan c).selector) : s.channelClock c = .unspecified := by
  unfold State.channelClock
  dsimp only
  rw [if_neg (by omega), if_neg (by omega), if_neg (by omega)]

end

/-- Settles O19: the selector picks the ladder, a shared clock or nothing, and the shared clock's fields its rate. -/
theorem channelClockFollowsSelector : Obligations.ChannelClockFollowsSelector := by
  intro s c sel divA preA divB preB hsel hdivA hpreA hdivB hpreB
  rw [← Chan.selector_eq] at hsel
  rw [← clkDiv_a_eq] at hdivA
  rw [← clkPre_a_eq] at hpreA
  rw [← clkDiv_b_eq] at hdivB
  rw [← clkPre_b_eq] at hpreB
  subst hsel hdivA hpreA hdivB hpreB
  refine ⟨State.channelClock_ladder, fun hs hdiv hpre => ?_, fun hs hdiv hpre => ?_, ?_, ?_⟩
  · rw [State.channelClock_a hs, sharedClockRate_running hdiv hpre]
  · rw [State.channelClock_b hs, sharedClockRate_running hdiv hpre]
  · rintro (⟨hs, hdiv⟩ | ⟨hs, hdiv⟩)
    · rw [State.channelClock_a hs, sharedClockRate_off hdiv]
    · rw [State.channelClock_b hs, sharedClockRate_off hdiv]
  · rintro (hs | ⟨hs, hdiv, hpre⟩ | ⟨hs, hdiv, hpre⟩)
    · exact State.channelClock_high hs
    · rw [State.channelClock_a hs, sharedClockRate_unspecified hdiv hpre]
    · rw [State.channelClock_b hs, sharedClockRate_unspecified hdiv hpre]

/-- Settles O20: the frequency is defined by the running clock, the enabled bit and the period, in the fields of CMRc and
CPRDc. -/
theorem outputFrequencyIsClockOverPeriod : Obligations.OutputFrequencyIsClockOverPeriod := by
  intro s c
  rw [← Chan.period_eq]
  refine ⟨fun divider hen hclk hperiod => ?_, fun hnone => ?_⟩
  · simp [State.outputFrequency, hclk, hen, hperiod, Chan.factor_eq]
  · unfold State.outputFrequency
    split
    · next hclk =>
      refine if_neg fun ⟨hen, hperiod⟩ => ?_
      rcases hnone with h | h | h | h
      · simp [h] at hen
      · omega
      · simp [h] at hclk
      · simp [h] at hclk
    · rfl
    · rfl

/-! ### STATUS (10_state R42, R43) -/

/-- BUSY is 0 exactly in the phase Idle (10_state R43). -/
theorem State.busy_eq_false_iff (s : State) : s.busy = false ↔ s.phase = .idle := by
  unfold State.busy
  split <;> simp [*]

theorem State.statusWord_toNat (s : State) : s.statusWord.toNat = s.busy.toNat * 2 ^ 31 + s.err.code.toNat := by
  unfold State.statusWord
  cases s.busy <;> cases s.err <;> rfl

/-- Settles O23: BUSY is bit 31, and the error code the low bits. -/
theorem statusHoldsBusyAndErrorCode : Obligations.StatusHoldsBusyAndErrorCode := by
  intro s
  have hbusy : s.busy.toNat * 2 ^ 31 = if s.phase = .idle then 0 else 2 ^ 31 := by
    simp only [← State.busy_eq_false_iff]
    cases s.busy <;> rfl
  rw [State.statusWord_toNat, hbusy]
  cases s.err <;> rfl

end Sys2Proof.Machine
end

section
/-! PROOFS. No command but SETF writes a direct register of an enabled channel (10_state R40, 70_reset_and_hazards R410):
a command's writes stand behind SR reads and disable waits (`Prog.Guarded`), and no other agent enables a channel. -/

namespace Sys2Proof.Machine

/-! ### Direct writes behind an SR read or a disable wait (10_state R40, 70_reset_and_hazards R410) -/

/-- The channels known to be disabled after a read of `r` gave `v`: a read of SR shows those whose bit is 0. -/
def disabledAfterRead (D : Set Channel) (r : Reg) (v : Word) : Set Channel :=
  if r = .sr then D ∪ {c | chBit v c = false} else D

/-- The channels known to be disabled after a write of `r`: after one of ENA, none. -/
def disabledAfterWrite (D : Set Channel) (r : Reg) : Set Channel :=
  if r = .ena then ∅ else D

/-- Every direct write of what remains of a command is to a channel known to be disabled, those of `D` being known at its
start and the SR reads and disable waits on the way telling of others. -/
def Prog.Guarded : Prog → Set Channel → Prop
  | .finish _ _, _ => True
  | .read r k, D => ∀ v, (k v).Guarded (disabledAfterRead D r v)
  | .write r _ k, D => (∀ c d, r.direct = some (c, d) → c ∈ D) ∧ k.Guarded (disabledAfterWrite D r)
  | .waitClear m k, D => k.Guarded (D ∪ {c | chBit m c = true})

theorem disabledAfterRead_mono {D E : Set Channel} (h : D ⊆ E) (r : Reg) (v : Word) :
    disabledAfterRead D r v ⊆ disabledAfterRead E r v := by
  unfold disabledAfterRead
  split
  · exact Set.union_subset_union_left _ h
  · exact h

theorem disabledAfterWrite_mono {D E : Set Channel} (h : D ⊆ E) (r : Reg) :
    disabledAfterWrite D r ⊆ disabledAfterWrite E r := by
  unfold disabledAfterWrite
  split
  · exact Set.Subset.rfl
  · exact h

/-- A register that stores a word is neither SR nor ENA: its accesses leave what is known. -/
theorem disabledAfterRead_of_stores {r : Reg} (h : r.stores = true) (D : Set Channel) (v : Word) :
    disabledAfterRead D r v = D :=
  if_neg fun e => by simp [e, Reg.stores] at h

theorem disabledAfterWrite_of_stores {r : Reg} (h : r.stores = true) (D : Set Channel) : disabledAfterWrite D r = D :=
  if_neg fun e => by simp [e, Reg.stores] at h

/-- More may be known than is needed. -/
theorem Prog.Guarded.mono {p : Prog} {D E : Set Channel} (hDE : D ⊆ E) (h : p.Guarded D) : p.Guarded E := by
  induction p generalizing D E with
  | finish e r => trivial
  | read r k ih => exact fun v => ih v (disabledAfterRead_mono hDE r v) (h v)
  | write r v k ih =>
    exact ⟨fun c d hd => hDE (h.1 c d hd), ih (disabledAfterWrite_mono hDE r) h.2⟩
  | waitClear m k ih => exact ih (Set.union_subset_union_left _ hDE) h

/-- What needs no knowledge is guarded anywhere. -/
theorem Prog.Guarded.of_empty {p : Prog} (h : p.Guarded ∅) (D : Set Channel) : p.Guarded D :=
  h.mono (Set.empty_subset D)

/-! ### The primitives are guarded -/

section
variable {p : Params} {c : Channel} {D : Set Channel} {k : Prog}

theorem Prog.Guarded.setField {r : Reg} {m v : Word} (hr : r.stores = true) (hd : ∀ c d, r.direct = some (c, d) → c ∈ D)
    (hk : k.Guarded D) : (Prog.setField p r m v k).Guarded D := by
  intro old
  rw [disabledAfterRead_of_stores hr]
  exact ⟨hd, by rwa [disabledAfterWrite_of_stores hr]⟩

/-- A field write of a register that is not direct needs no knowledge. -/
theorem Prog.Guarded.setField_indirect {r : Reg} {m v : Word} (hr : r.stores = true) (hd : r.direct = none)
    (hk : k.Guarded D) : (Prog.setField p r m v k).Guarded D :=
  .setField hr (fun c d h => by rw [hd] at h; cases h) hk

theorem Prog.Guarded.getField {r : Reg} {m : Word} {k : Word → Prog} (hk : ∀ x, (k x).Guarded ∅) :
    (Prog.getField p r m k).Guarded D :=
  fun _ => (hk _).of_empty _

theorem Prog.Guarded.enable {m : Word} (hk : k.Guarded ∅) : (Prog.enable m k).Guarded D :=
  ⟨nofun, hk⟩

theorem Prog.Guarded.disable {m : Word} (hk : k.Guarded {c | chBit m c = true}) : (Prog.disable m k).Guarded D :=
  ⟨nofun, Prog.Guarded.mono (p := k) Set.subset_union_right hk⟩

theorem Prog.Guarded.enableIf {b : Bool} (hk : k.Guarded ∅) : (Prog.enableIf b c k).Guarded D := by
  unfold Prog.enableIf
  split
  · exact .enable hk
  · exact hk.of_empty D

theorem Prog.Guarded.disableIf {b : Bool} (hk : k.Guarded ∅) : (Prog.disableIf b c k).Guarded D := by
  unfold Prog.disableIf
  split
  · exact .disable (hk.of_empty _)
  · exact hk.of_empty D

/-- Behind an SR read, a field write of the shadow register of an enabled channel, else of the direct one, is guarded. -/
theorem Prog.Guarded.bySr {shadow direct : Reg} {m v : Word} {dr : DirectReg} (hs : shadow.stores = true)
    (hsd : shadow.direct = none) (hd : direct.stores = true) (hdd : direct.direct = some (c, dr)) (hk : k.Guarded ∅) :
    (Prog.read .sr fun sr =>
      if chBit sr c then Prog.setField p shadow m v k else Prog.setField p direct m v k).Guarded D := by
  intro sr
  dsimp only
  split
  · exact .setField_indirect hs hsd (hk.of_empty _)
  · next hbit =>
    refine .setField hd (fun c' d' h => ?_) (hk.of_empty _)
    rw [hdd] at h
    cases h
    exact .inr (by simpa using hbit)

theorem Prog.Guarded.setPeriod {v : Word} (hk : k.Guarded ∅) : (Prog.setPeriod p c v k).Guarded D :=
  .bySr (shadow := .cprdupd c) (direct := .cprd c) rfl rfl rfl rfl hk

theorem Prog.Guarded.setDuty {v : Word} (hk : k.Guarded ∅) : (Prog.setDuty p c v k).Guarded D :=
  .bySr (shadow := .cdtyupd c) (direct := .cdty c) rfl rfl rfl rfl hk

theorem Prog.Guarded.zeroAll {regs : List Reg} (hr : ∀ r ∈ regs, r.stores = true)
    (hd : ∀ r ∈ regs, ∀ c d, r.direct = some (c, d) → c ∈ D) (hk : k.Guarded D) : (Prog.zeroAll p regs k).Guarded D := by
  induction regs with
  | nil => exact hk
  | cons r regs ih =>
    exact .setField (hr r List.mem_cons_self) (hd r List.mem_cons_self)
      (ih (fun q hq => hr q (List.mem_cons_of_mem _ hq)) fun q hq => hd q (List.mem_cons_of_mem _ hq))

/-- reset_channel zeroes the direct registers behind the wait for its channel. -/
theorem Prog.Guarded.resetChannel (hk : k.Guarded ∅) : (Prog.resetChannel p c k).Guarded D := by
  refine .disable (.zeroAll ?_ ?_ (hk.of_empty _))
  · simp [Prog.channelRegs, Reg.stores]
  · simp [Prog.channelRegs, Reg.direct]

theorem Prog.Guarded.setClock {ck : SharedClock} {pre div : Word} (hk : k.Guarded D) :
    (Prog.setClock p ck pre div k).Guarded D :=
  .setField_indirect rfl rfl (.setField_indirect rfl rfl hk)

theorem Prog.Guarded.setClockIf {ck : SharedClock} {pre div : Word} (hk : k.Guarded D) :
    (Machine.setClockIf p ck pre div k).Guarded D := by
  unfold Machine.setClockIf
  split
  · exact hk
  · exact .setClock hk

end

/-! ### The resolver paths are guarded -/

section
variable {p : Params} {c : Channel} {D : Set Channel} {f : Word} {k : Except ErrCode Word → Prog}

theorem Prog.Guarded.resolveLocal (hk : ∀ r, (k r).Guarded ∅) : (Prog.resolveLocal p c f k).Guarded D := by
  unfold Prog.resolveLocal
  split
  · exact (hk _).of_empty D
  · refine .getField fun calg => ?_
    split
    · exact hk _
    · split
      · exact hk _
      · exact fun sr => .disableIf (.setPeriod (.setField_indirect rfl rfl (.enableIf (hk _))))

theorem Prog.Guarded.resolveShared {ck : SharedClock} (hk : ∀ r, (k r).Guarded ∅) :
    (Prog.resolveShared p c f ck k).Guarded D := by
  unfold Prog.resolveShared
  split
  · exact (hk _).of_empty D
  · split
    · exact (hk _).of_empty D
    · exact fun sr => .disableIf (.setClock (.setField_indirect rfl rfl (.enableIf (hk _))))

theorem Prog.Guarded.initcResolve {clk : Option SharedClock} (hk : ∀ r, (k r).Guarded ∅) :
    (Machine.initcResolve p c f clk k).Guarded D := by
  unfold Machine.initcResolve
  split
  · exact .resolveLocal hk
  · refine .resolveShared fun r => ?_
    cases r with
    | error e => exact .getField fun _ => hk _
    | ok payload => exact hk _

end

theorem Prog.guarded_finishWith (r : Except ErrCode Word) : (Prog.finishWith r).Guarded ∅ := by
  cases r <;> trivial

theorem guarded_initcBody (p : Params) (c : Channel) (align : Alignment) (pol : Polarity) (f duty : Word)
    (clk : Option SharedClock) : (initcBody p c align pol f duty clk).Guarded ∅ := by
  refine fun sr => .disableIf (.initcResolve fun r => ?_)
  cases r with
  | error e => exact .enableIf trivial
  | ok payload =>
    exact .setField_indirect rfl rfl (.setField_indirect rfl rfl (.setDuty (.enableIf trivial)))

/-- Every command but SETF writes a direct register only behind an SR read or a wait that showed its channel disabled. -/
theorem guarded_progOf {i : Instr} (h : ∀ regw, i ≠ .setf regw) (p : Params) (a0 a1 : Word) :
    (progOf i p a0 a1).Guarded ∅ := by
  cases i with
  | setf regw => exact absurd rfl (h regw)
  | initp => exact .setClockIf (.setClockIf trivial)
  | initc c align pol useClk ck =>
    dsimp only [progOf, progInitc]
    split_ifs
    · trivial
    · trivial
    · exact guarded_initcBody _ _ _ _ _ _ _
    · exact guarded_initcBody _ _ _ _ _ _ _
  | enable chm => exact .enable trivial
  | disable chm => exact .disable trivial
  | isen c => exact fun _ => trivial
  | setpol c | setalg c | setpre c => exact .setField_indirect rfl rfl trivial
  | setper c => exact .setPeriod trivial
  | setdty c => exact .setDuty trivial
  | setfreq c => exact .resolveLocal Prog.guarded_finishWith
  | setclkf c ck =>
    dsimp only [progOf, progSetclkf]
    split
    · trivial
    · exact .resolveShared Prog.guarded_finishWith
  | setclk ck =>
    dsimp only [progOf, progSetclk]
    split
    · trivial
    · exact .setClock trivial
  | clkoff ck =>
    dsimp only [progOf, progClkoff]
    split
    · trivial
    · exact .setField_indirect rfl rfl trivial
  | resetc c => exact .resetChannel trivial
  | resetp =>
    refine .setField_indirect rfl rfl ?_
    generalize allChannels = cs
    induction cs with
    | nil => trivial
    | cons c cs ih => exact .resetChannel ih
  | getper c | getalg c | getpre c | getdty c => exact .getField fun _ => trivial
  | getf regw =>
    dsimp only [progOf, progGetf]
    split
    · trivial
    · split
      · trivial
      · exact .getField fun _ => trivial

/-! ### A guarded command never faults -/

/-- The disabled channels of a state. -/
def State.disabled (s : State) : Set Channel := {c | (s.chan c).en = false}

theorem State.mem_disabled {s : State} {c : Channel} : c ∈ s.disabled ↔ (s.chan c).en = false := Iff.rfl

/-- What a register read tells of the enabled bits is so (10_state R26). -/
theorem State.disabledAfterRead_subset (s : State) (r : Reg) :
    disabledAfterRead s.disabled r (s.regValue r) ⊆ s.disabled := by
  unfold disabledAfterRead
  split
  · next hr =>
    subst hr
    refine Set.union_subset Set.Subset.rfl fun c hc => ?_
    simpa [State.regValue, State.mem_disabled] using hc
  · exact Set.Subset.rfl

/-- A register write but one of ENA leaves the disabled channels disabled. -/
theorem State.disabledAfterWrite_subset (s : State) (r : Reg) (v : Word) :
    disabledAfterWrite s.disabled r ⊆ (s.storeReg v r).disabled := by
  unfold disabledAfterWrite
  split
  · exact Set.empty_subset _
  · next hr =>
    intro c hc
    simpa [State.mem_disabled, State.storeReg_chan_en, hr] using hc

/-- The channels of a mask are disabled when its wait ends (42_channel R152). -/
theorem State.disabled_of_waitEnd {s : State} {m : Word} (h : s.srWord &&& m = 0) :
    s.disabled ∪ {c | chBit m c = true} ⊆ s.disabled :=
  Set.union_subset Set.Subset.rfl ((srWord_and_eq_zero_iff s m).1 h)

theorem State.disabled_subset_boundary (s : State) (c : Channel) : s.disabled ⊆ (s.boundary c).disabled := by
  intro d hd
  rw [State.mem_disabled] at hd
  simp [State.mem_disabled, State.boundary_chan_en, hd]

/-- A write to no direct register but those of disabled channels does not fault (10_state R40). -/
theorem State.directFault_eq_none {s : State} {r : Reg} (h : ∀ c d, r.direct = some (c, d) → c ∈ s.disabled) :
    s.directFault r = none := by
  rw [State.directFault_eq]
  split
  · next c d hr => rw [if_neg (by simp [State.mem_disabled.1 (h c d hr)])]
  · rfl

/-- `s` has no fault, and its running command, if there is one, is `i`, with guarded writes left. -/
structure State.RunsGuarded (p : Params) (i : Instr) (s : State) : Prop where
  fault : s.fault = none
  params : s.params = p
  running : ∀ l, s.phase = .running l →
    decode l.cmd = .ok i ∧ ((progOf i p l.arg0 l.arg1).resume l.replies).Guarded s.disabled

namespace State.RunsGuarded
variable {p : Params} {i : Instr} {s t : State}

/-- Kept by whatever leaves the mark, the parameters and the phase, and enables no channel. -/
theorem of_frame (h : s.RunsGuarded p i) (hfault : t.fault = s.fault) (hparams : t.params = s.params)
    (hphase : t.phase = s.phase) (hdis : s.disabled ⊆ t.disabled) : t.RunsGuarded p i where
  fault := hfault.trans h.fault
  params := hparams.trans h.params
  running l hl := (h.running l (hphase ▸ hl)).imp_right (·.mono hdis)

theorem finish (h : s.RunsGuarded p i) (e : ErrCode) (r : Word) : (s.finish e r).RunsGuarded p i where
  fault := h.fault
  params := h.params
  running l hl := by cases hl

/-- Kept by an access that is performed, when what remains behind it is guarded. -/
theorem reply {l : Latch} {v : Word} (h : s.RunsGuarded p i) (hl : s.phase = .running l) (hfault : t.fault = s.fault)
    (hparams : t.params = s.params) (hphase : t.phase = s.phase)
    (hrest : (((progOf i p l.arg0 l.arg1).resume l.replies).after v).Guarded t.disabled) :
    (t.reply v).RunsGuarded p i where
  fault := hfault.trans h.fault
  params := hparams.trans h.params
  running l' hl' := by
    rw [State.reply_phase_of_running (hphase.trans hl)] at hl'
    cases hl'
    exact ⟨(h.running l hl).1, by rwa [Prog.resume_append]⟩

/-- The access a guarded command stands at leaves it guarded, and does not fault. -/
theorem act {l : Latch} {q : Prog} (h : s.RunsGuarded p i) (hl : s.phase = .running l)
    (hq : (progOf i p l.arg0 l.arg1).resume l.replies = q) : (q.act s).RunsGuarded p i := by
  have hg : q.Guarded s.disabled := hq ▸ (h.running l hl).2
  cases q with
  | finish e r => exact h.finish e r
  | read r k =>
    obtain ⟨-, hchans, -, -, -, -, -, hphase, hfault, hparams, -, -⟩ := s.afterRead_frame r
    have hdis : s.disabled ⊆ (s.afterRead r).disabled := fun c hc => by
      rwa [State.mem_disabled, State.chan_congr hchans]
    refine h.reply hl hfault hparams hphase ?_
    rw [hq]
    exact (hg _).mono ((s.disabledAfterRead_subset r).trans hdis)
  | write r v k =>
    obtain ⟨hdirect, hk⟩ := hg
    obtain ⟨-, -, -, -, -, hphase, hfault, hparams, -, -⟩ := s.storeReg_frame v r
    rw [Prog.act, State.writeStep_of_ok (State.directFault_eq_none hdirect)]
    refine h.reply hl hfault hparams hphase ?_
    rw [hq]
    exact hk.mono (s.disabledAfterWrite_subset r v)
  | waitClear m k =>
    dsimp only [Prog.act]
    unfold State.waitStep
    split
    · next hm =>
      refine h.reply hl rfl rfl rfl ?_
      rw [hq]
      exact hg.mono (State.disabled_of_waitEnd hm)
    · exact h

theorem of_sequencerStep (h : s.RunsGuarded p i) (hs : sequencerStep s = .next t) : t.RunsGuarded p i := by
  rcases sequencerStep_cases hs with ⟨-, rfl⟩ | rfl | ⟨l, j, hl, hj, he⟩
  · exact h
  · exact h.finish .illegal 0
  · obtain rfl : i = j := Except.ok.inj ((h.running l hl).1.symm.trans hj)
    rw [exec_of_stands (stands_of_running i hl)] at he
    cases he
    exact h.act hl (by rw [h.params])

/-- Every move of a schedule with a passive host keeps it. -/
theorem of_stepMove {m : Move} (h : s.RunsGuarded p i) (hpassive : ∀ a, m = .host a → a.Passive p)
    (hs : stepMove m s = .next t) : t.RunsGuarded p i := by
  rcases stepMove_cases hs with ⟨a, rfl, rfl⟩ | ⟨c, -, rfl⟩ | ⟨-, rfl⟩ | hseq
  · obtain ⟨x, hx⟩ := State.hostAccess_of_passive (s := s) (h.params ▸ hpassive a rfl)
    rw [hx]
    exact h.of_frame rfl rfl rfl Set.Subset.rfl
  · have hframe := s.boundary_frame c
    exact h.of_frame (by rw [hframe]) (by rw [hframe]) (by rw [hframe]) (s.disabled_subset_boundary c)
  · exact h.of_frame rfl rfl rfl Set.Subset.rfl
  · exact h.of_sequencerStep hseq

theorem of_runAt {σ : Schedule} (h : s.RunsGuarded p i) (hσ : HostPassive p σ) (n : Nat) : (runAt σ s n).RunsGuarded p i := by
  induction n with
  | zero => exact h
  | succ n ih =>
    unfold runAt
    split
    · next hs =>
      refine ih.of_stepMove (fun a ha => ?_) hs
      rcases hσ n with e | ⟨c, e⟩ | e | ⟨b, e, hb⟩ <;> rw [e] at ha <;> cases ha
      exact hb
    · exact ih
    · exact ih

end State.RunsGuarded

/-- Settles O58: what remains of such a command is guarded at every point of the run. -/
theorem onlySetfFaultsOnDirectWrites : Obligations.OnlySetfFaultsOnDirectWrites := by
  intro σ s l i hfault hl hreplies hi hsetf hσ n
  have hstart : s.RunsGuarded s.params i :=
    { fault := hfault
      params := rfl
      running := fun l' hl' => by
        obtain rfl : l = l' := Phase.running.inj (hl.symm.trans hl')
        rw [hreplies]
        exact ⟨hi, (guarded_progOf hsetf s.params l.arg0 l.arg1).of_empty _⟩ }
  exact (hstart.of_runAt hσ n).fault

end Sys2Proof.Machine
end

section
/-! PROOFS. The shadow write of SETPER and SETDTY behind the SR read that selected it (20_memory R63, R70,
70_reset_and_hazards R417). -/

namespace Sys2Proof.Machine

/-- The word a write of a period or duty cycle makes, with the shift written out (10_state R48, 40_bitfield R111). -/
theorem insertField_half (rule : ShiftRule) (old v : Word) :
    insertField rule old 0xFFFF v = putField old 0xFFFF v (rule.pick 0 15) :=
  congrArg (putField old 0xFFFF v) (shiftOf_cprd rule)

/-- An SR read that showed the channel enabled selects the shadow register, and a field write that has read its register
is left with the write of the word computed from it (42_channel R158, R160). -/
theorem Prog.resume_bySr {p : Params} {c : Channel} {sr : Word} (hsr : chBit sr c = true) (shadow : Reg)
    (m v old : Word) (k q : Prog) :
    (Prog.read .sr fun x => if chBit x c then Prog.setField p shadow m v k else q).resume [sr, old] =
      .write shadow (insertField p.shiftRule old m v) k := by
  simp only [Prog.resume, List.foldl, Prog.after, if_pos hsr, Prog.setField]

/-- Standing at the write of a register that is not direct, a command performs it. -/
theorem exec_of_stands_indirect_write {i : Instr} {s : State} {r : Reg} {v : Word} {k : Prog}
    (h : Stands i s (.write r v k)) (hr : r.direct = none) : exec i s = .next ((s.storeReg v r).reply v) := by
  have hdf : s.directFault r = none := by rw [State.directFault_eq, hr]
  rw [exec_of_stands h, Prog.act, State.writeStep_of_ok hdf]

section
variable {s : State} {w a0 a1 sr old : Word} {c : Channel}

/-- An SR read that showed the channel enabled leads SETPER to the shadow register (42_channel R158). -/
theorem stands_setper_shadow_write (hat : s.At w a0 a1 [sr, old]) (hsr : chBit sr c = true) :
    Stands (.setper c) s
      (.write (.cprdupd c) (putField old 0xFFFF (a0 &&& 0xFFFF) (s.params.shiftRule.pick 0 15)) (.finish .ok 0)) := by
  rw [← argHalf_eq, ← insertField_half]
  exact ⟨_, hat, Prog.resume_bySr hsr ..⟩

/-- An SR read that showed the channel enabled leads SETDTY to the shadow register (42_channel R160). -/
theorem stands_setdty_shadow_write (hat : s.At w a0 a1 [sr, old]) (hsr : chBit sr c = true) :
    Stands (.setdty c) s
      (.write (.cdtyupd c) (putField old 0xFFFF (a0 &&& 0xFFFF) (s.params.shiftRule.pick 0 15)) (.finish .ok 0)) := by
  rw [← argHalf_eq, ← insertField_half]
  exact ⟨_, hat, Prog.resume_bySr hsr ..⟩

end

/-- Settles O18: the SR value read selects the shadow write, and the write arms no transfer of a disabled channel. -/
theorem shadowWriteAfterDisableIsLost : Obligations.ShadowWriteAfterDisableIsLost := by
  intro s w a0 a1 sr old c hat hsr hen hprd hdty
  refine ⟨⟨_, exec_of_stands_indirect_write (stands_setper_shadow_write hat hsr) rfl, ?_⟩,
    ⟨_, exec_of_stands_indirect_write (stands_setdty_shadow_write hat hsr) rfl, ?_⟩⟩
  · rw [State.reply_chan, State.storeReg_cprdupd_chan]
    exact ⟨rfl, by simp [Chan.writePrdShadow, hen, hprd], rfl⟩
  · rw [State.reply_chan, State.storeReg_cdtyupd_chan]
    exact ⟨rfl, by simp [Chan.writeDtyShadow, hen, hdty], rfl⟩

end Sys2Proof.Machine
end

section
/-! PROOFS. The formats (30_encoding R81 to R88) read both ways: a word is a format's word of some fields exactly when
the row's mask and match agree on it and those are the fields it holds. -/

namespace Sys2Proof

/-! ### Appended bit strings -/

theorem append_eq_append_iff {m n : Nat} {a c : BitVec m} {b d : BitVec n} : a ++ b = c ++ d ↔ a = c ∧ b = d := by
  refine ⟨fun h => ⟨?_, ?_⟩, fun ⟨ha, hb⟩ => by rw [ha, hb]⟩
  · simpa only [BitVec.extractLsb'_append_eq_left] using congrArg (BitVec.extractLsb' n m) h
  · simpa only [BitVec.extractLsb'_append_eq_right] using congrArg (BitVec.extractLsb' 0 n) h

theorem exists_append {m n : Nat} (w : BitVec (m + n)) : ∃ (a : BitVec m) (b : BitVec n), w = a ++ b :=
  ⟨_, _, BitVec.extractLsb'_append_extractLsb'.symm⟩

theorem extractLsb'_eq_append_iff {v m n s : Nat} {w : BitVec v} {a : BitVec m} {b : BitVec n} :
    w.extractLsb' s (m + n) = a ++ b ↔ w.extractLsb' (s + n) m = a ∧ w.extractLsb' s n = b := by
  rw [← BitVec.extractLsb'_append_extractLsb'_eq_extractLsb' rfl, append_eq_append_iff]

/-- A field `f` below fixed bits `x`: the mask has a 1 at every fixed bit. -/
theorem append_eq_iff {m n : Nat} {x : BitVec m} {f : BitVec n} {w : BitVec (m + n)} :
    x ++ f = w ↔ w &&& (BitVec.allOnes m ++ 0#n) = x ++ 0#n ∧ w.extractLsb' 0 n = f := by
  obtain ⟨y, g, rfl⟩ := exists_append w
  simp only [BitVec.and_append, append_eq_append_iff, BitVec.extractLsb'_append_eq_right, BitVec.and_allOnes,
    BitVec.and_zero, and_true, eq_comm]

/-- Two fields `c` and `f`, with fixed bits above each of them. -/
theorem append_append_append_eq_iff {m k j n : Nat} {x : BitVec m} {c : BitVec k} {z : BitVec j} {f : BitVec n}
    {w : BitVec (m + k + j + n)} :
    x ++ c ++ z ++ f = w ↔ w &&& (BitVec.allOnes m ++ 0#k ++ BitVec.allOnes j ++ 0#n) = x ++ 0#k ++ z ++ 0#n ∧
      w.extractLsb' (j + n) k = c ∧ w.extractLsb' 0 n = f := by
  obtain ⟨v, g, rfl⟩ := exists_append w
  obtain ⟨u, y, rfl⟩ := exists_append v
  have hc : (u ++ y ++ g).extractLsb' (j + n) k = u.extractLsb' 0 k := by
    rw [BitVec.extractLsb'_append_eq_of_le (by omega), BitVec.extractLsb'_append_eq_of_le (by omega),
      Nat.add_sub_cancel, Nat.sub_self]
  rw [hc, BitVec.extractLsb'_append_eq_right, append_eq_append_iff, append_eq_append_iff, append_eq_iff]
  simp only [BitVec.and_append, append_eq_append_iff, BitVec.and_allOnes, BitVec.and_zero, and_true, @eq_comm _ y,
    @eq_comm _ g]
  tauto

/-! ### Fields that are not bit strings -/

theorem chOf_eq_iff {w : Word} {ch : Channel} : chOf w = ch ↔ w.extractLsb' 0 3 = chBits ch :=
  ⟨fun h => h ▸ rfl, fun h => congrArg BitVec.toFin h⟩

theorem useClkOf_eq_getLsbD (w : Word) : useClkOf w = w.getLsbD 23 :=
  (BitVec.getLsbD_eq_extractLsb' w 23).symm

theorem useClkOf_eq_iff {w : Word} {b : Bool} : useClkOf w = b ↔ w.extractLsb' 23 1 = useClkBit b := by
  unfold useClkOf
  generalize w.extractLsb' 23 1 = u
  revert u b
  decide

theorem alignmentOf_eq_iff {b : BitVec 1} {align : Alignment} : alignmentOf b = align ↔ b = align.code := by
  cases align <;> revert b <;> decide

theorem polarityOf_eq_iff {b : BitVec 1} {pol : Polarity} : polarityOf b = pol ↔ b = pol.code := by
  cases pol <;> revert b <;> decide

/-! ### The seven formats -/

/-- FMT_N (R82) has no field. -/
theorem fmtN_eq_iff {op : BitVec 6} {w : Word} : fmtN op = w ↔ w &&& 0xFFFFFFFF = fmtN op := by
  rw [show (0xFFFFFFFF : Word) = BitVec.allOnes 32 from rfl, BitVec.and_allOnes, eq_comm]

theorem fmtM_eq_iff {op : BitVec 6} {chm : BitVec 8} {w : Word} :
    fmtM op chm = w ↔ w &&& 0xFFFFFF00 = fmtM op 0 ∧ chmOf w = chm :=
  append_eq_iff

theorem fmtC_eq_iff {op : BitVec 6} {ch : Channel} {w : Word} :
    fmtC op ch = w ↔ w &&& 0xFFFFFFF8 = fmtC op 0 ∧ chOf w = ch := by
  rw [chOf_eq_iff]
  exact append_eq_iff

theorem fmtK_eq_iff {op : BitVec 6} {ck : BitVec 2} {w : Word} :
    fmtK op ck = w ↔ w &&& 0xFFFFFFFC = fmtK op 0 ∧ ckLowOf w = ck :=
  append_eq_iff

theorem fmtCK_eq_iff {op : BitVec 6} {ck : BitVec 2} {ch : Channel} {w : Word} :
    fmtCK op ck ch = w ↔ w &&& 0xFCFFFFF8 = fmtCK op 0 0 ∧ ckHighOf w = ck ∧ chOf w = ch := by
  rw [chOf_eq_iff]
  exact append_append_append_eq_iff

theorem fmtR_eq_iff {op : BitVec 6} {regw : BitVec 10} {w : Word} :
    fmtR op regw = w ↔ w &&& 0xFFFFFC00 = fmtR op 0 ∧ regwOf w = regw :=
  append_eq_iff

/-- FMT_I (R87) with CK, USECLK, ALIGN and POL as one field of five bits. -/
theorem fmtI_eq_append (op : BitVec 6) (ck : BitVec 2) (useClk : Bool) (align : Alignment) (pol : Polarity)
    (ch : Channel) : fmtI op ck useClk align pol ch =
      op ++ (ck ++ useClkBit useClk ++ align.code ++ pol.code) ++ 0#18 ++ chBits ch := by
  simp only [fmtI, BitVec.append_assoc, BitVec.cast_eq]

/-- Those five bits of a word, one by one. -/
theorem extract_mode_eq_iff {w : Word} {ck : BitVec 2} {useClk align pol : BitVec 1} :
    w.extractLsb' 21 5 = ck ++ useClk ++ align ++ pol ↔
      ((w.extractLsb' 24 2 = ck ∧ w.extractLsb' 23 1 = useClk) ∧ w.extractLsb' 22 1 = align) ∧
        w.extractLsb' 21 1 = pol :=
  (extractLsb'_eq_append_iff (m := 4) (n := 1)).trans <| and_congr_left' <|
    (extractLsb'_eq_append_iff (m := 3) (n := 1)).trans <| and_congr_left' <|
      extractLsb'_eq_append_iff (m := 2) (n := 1)

theorem fmtI_eq_iff {op : BitVec 6} {ck : BitVec 2} {useClk : Bool} {align : Alignment} {pol : Polarity} {ch : Channel}
    {w : Word} :
    fmtI op ck useClk align pol ch = w ↔ w &&& 0xFC1FFFF8 = fmtI op 0 false .left .normal 0 ∧
      ckHighOf w = ck ∧ useClkOf w = useClk ∧ alignOf w = align ∧ polOf w = pol ∧ chOf w = ch := by
  rw [fmtI_eq_append, fmtI_eq_append, useClkOf_eq_iff, alignOf, alignmentOf_eq_iff, polOf, polarityOf_eq_iff,
    chOf_eq_iff]
  refine append_append_append_eq_iff.trans (and_congr_right' ((and_congr_left' extract_mode_eq_iff).trans ?_))
  simp only [and_assoc, ckHighOf]

end Sys2Proof
end

section
/-! PROOFS. The decoder and the encoder are inverse to each other, and the words the decoder refuses (30_encoding R90 to
R92). -/

namespace Sys2Proof

/-! ### The decoder's two checks (30_encoding R91) -/

theorem ifMatches_eq_ok_iff {w mask pat : Word} {i j : Instr} :
    ifMatches w mask pat i = .ok j ↔ w &&& mask = pat ∧ i = j := by
  unfold ifMatches
  split <;> simp [*]

theorem ifMatches_eq_error_iff {w mask pat : Word} {i : Instr} :
    (∃ e, ifMatches w mask pat i = .error e) ↔ w &&& mask ≠ pat := by
  unfold ifMatches
  split <;> simp [*]

theorem checkClockUse_eq_ok_iff {r : Except DecodeError Instr} {i : Instr} :
    checkClockUse r = .ok i ↔ r = .ok i ∧ i.wellFormed = true := by
  cases r with
  | error e => simp [checkClockUse]
  | ok j =>
    simp only [checkClockUse, Except.ok.injEq]
    split
    · next hj => exact ⟨fun h => by cases h; exact ⟨rfl, hj⟩, fun h => by rw [h.1]⟩
    · next hj => exact ⟨fun h => (nomatch h), fun ⟨hij, hi⟩ => absurd (hij ▸ hi) hj⟩

theorem checkClockUse_ifMatches_eq_error_iff {w mask pat : Word} {i : Instr} :
    (∃ e, checkClockUse (ifMatches w mask pat i) = .error e) ↔ w &&& mask ≠ pat ∨ i.wellFormed = false := by
  unfold ifMatches
  split <;> cases hwf : i.wellFormed <;> simp [checkClockUse, *]

/-- Every mask of the opcode map covers the opcode, so a match fixes it (R90). -/
theorem opOf_eq_of_masked {w mask pat : Word} (h : w &&& mask = pat) (hmask : opOf mask = 0x3F) :
    opOf w = opOf pat := by
  have hones : mask.extractLsb' 26 6 = BitVec.allOnes 6 := hmask
  rw [← h, opOf, opOf, BitVec.extractLsb'_and, hones, BitVec.and_allOnes]

/-! ### Decoding and encoding -/

/-- Settles O2: a decoded word matches its row, and its command is made of the fields the word holds. -/
theorem decodedWordIsItsCommandsWord : Obligations.DecodedWordIsItsCommandsWord := by
  intro w i h
  unfold decode at h
  split at h
  case h_2 =>
    obtain ⟨hi, hwf⟩ := checkClockUse_eq_ok_iff.1 h
    obtain ⟨hm, rfl⟩ := ifMatches_eq_ok_iff.1 hi
    exact ⟨hwf, fmtI_eq_iff.2 ⟨hm, rfl, rfl, rfl, rfl, rfl⟩⟩
  case h_23 => cases h
  all_goals obtain ⟨hm, rfl⟩ := ifMatches_eq_ok_iff.1 h
  case h_1 | h_16 => exact ⟨rfl, fmtN_eq_iff.2 hm⟩
  case h_3 | h_4 => exact ⟨rfl, fmtM_eq_iff.2 ⟨hm, rfl⟩⟩
  case h_12 => exact ⟨rfl, fmtCK_eq_iff.2 ⟨hm, rfl, rfl⟩⟩
  case h_13 | h_14 => exact ⟨rfl, fmtK_eq_iff.2 ⟨hm, rfl⟩⟩
  case h_21 | h_22 => exact ⟨rfl, fmtR_eq_iff.2 ⟨hm, rfl⟩⟩
  all_goals exact ⟨rfl, fmtC_eq_iff.2 ⟨hm, rfl⟩⟩

/-- Settles O1: an encoded command matches its row, which fixes the decoder's arm, and holds the command's fields. -/
theorem decodeReadsBackEveryEncodedCommand : Obligations.DecodeReadsBackEveryEncodedCommand := by
  intro i hwf
  cases i with
  | initp | resetp => rfl
  | initc ch align pol useClk ck =>
    obtain ⟨hm, hck, huse, halign, hpol, hch⟩ := fmtI_eq_iff.1 (rfl : fmtI _ ck useClk align pol ch = _)
    rw [decode, encode, opOf_eq_of_masked hm rfl]
    exact checkClockUse_eq_ok_iff.2 ⟨ifMatches_eq_ok_iff.2 ⟨hm, by rw [hck, huse, halign, hpol, hch]⟩, hwf⟩
  | enable chm | disable chm =>
    obtain ⟨hm, hchm⟩ := fmtM_eq_iff.1 (rfl : fmtM _ chm = _)
    rw [decode, encode, opOf_eq_of_masked hm rfl]
    exact ifMatches_eq_ok_iff.2 ⟨hm, by rw [hchm]⟩
  | setclkf ch ck =>
    obtain ⟨hm, hck, hch⟩ := fmtCK_eq_iff.1 (rfl : fmtCK _ ck ch = _)
    rw [decode, encode, opOf_eq_of_masked hm rfl]
    exact ifMatches_eq_ok_iff.2 ⟨hm, by rw [hck, hch]⟩
  | setclk ck | clkoff ck =>
    obtain ⟨hm, hck⟩ := fmtK_eq_iff.1 (rfl : fmtK _ ck = _)
    rw [decode, encode, opOf_eq_of_masked hm rfl]
    exact ifMatches_eq_ok_iff.2 ⟨hm, by rw [hck]⟩
  | setf regw | getf regw =>
    obtain ⟨hm, hregw⟩ := fmtR_eq_iff.1 (rfl : fmtR _ regw = _)
    rw [decode, encode, opOf_eq_of_masked hm rfl]
    exact ifMatches_eq_ok_iff.2 ⟨hm, by rw [hregw]⟩
  | _ ch =>
    obtain ⟨hm, hch⟩ := fmtC_eq_iff.1 (rfl : fmtC _ ch = _)
    rw [decode, encode, opOf_eq_of_masked hm rfl]
    exact ifMatches_eq_ok_iff.2 ⟨hm, by rw [hch]⟩

/-- Settles O4: the words are evaluated. -/
theorem sampleWordsDecode : Obligations.SampleWordsDecode := by
  unfold Obligations.SampleWordsDecode
  decide

/-! ### The words the decoder refuses (30_encoding R91, R92) -/

/-- Row `k` of the opcode map is the row of opcode `k + 1`, and its mask covers the opcode (R90). -/
theorem opcode_of_row {k : Nat} {row : Word × Word} (h : opcodeRows[k]? = some row) :
    k < 22 ∧ opOf row.1 = 0x3F ∧ (opOf row.2).toNat = k + 1 := by
  have hrows : ∀ j : Fin 22, opOf opcodeRows[j].1 = 0x3F ∧ (opOf opcodeRows[j].2).toNat = j + 1 := by decide
  obtain ⟨hk, rfl⟩ := List.getElem?_eq_some_iff.1 h
  exact ⟨hk, hrows ⟨k, hk⟩⟩

/-- A word matches no row but the one of its opcode. -/
theorem row_of_matches {w : Word} {row : Word × Word} (hrow : row ∈ opcodeRows) (hw : w &&& row.1 = row.2) :
    ∃ k < 22, opcodeRows[k]? = some row ∧ (opOf w).toNat = k + 1 := by
  obtain ⟨k, hk⟩ := List.mem_iff_getElem?.1 hrow
  obtain ⟨hlt, hmask, hpat⟩ := opcode_of_row hk
  exact ⟨k, hlt, hk, by rw [opOf_eq_of_masked hw hmask, hpat]⟩

theorem matches_no_row_iff {w : Word} {k : Nat} {row : Word × Word} (hop : (opOf w).toNat = k + 1)
    (hrow : opcodeRows[k]? = some row) : (∀ r ∈ opcodeRows, w &&& r.1 ≠ r.2) ↔ w &&& row.1 ≠ row.2 := by
  refine ⟨fun h => h row (List.mem_of_getElem? hrow), fun h r hr hw => h ?_⟩
  obtain ⟨j, -, hj, hopj⟩ := row_of_matches hr hw
  obtain rfl : j = k := by omega
  obtain rfl : r = row := Option.some.inj (hj.symm.trans hrow)
  exact hw

/-- The words R91 calls illegal: no row matches, or INITC's side condition fails (R87). -/
def IllegalWord (w : Word) : Prop :=
  (∀ row ∈ opcodeRows, w &&& row.1 ≠ row.2) ∨
    (w &&& 0xFC1FFFF8 = 0x08000000 ∧ w.getLsbD 23 = false ∧ w.extractLsb' 24 2 ≠ 0)

/-- With an opcode other than INITC's, a word is illegal exactly when it does not match the row of its opcode. -/
theorem illegalWord_iff_of_not_initc {w : Word} {k : Nat} {row : Word × Word} (hop : (opOf w).toNat = k + 1)
    (hrow : opcodeRows[k]? = some row) (hk : k ≠ 1) : IllegalWord w ↔ w &&& row.1 ≠ row.2 := by
  rw [IllegalWord, matches_no_row_iff hop hrow, or_iff_left]
  rintro ⟨hinitc, -⟩
  have hop2 : (opOf w).toNat = 2 := congrArg BitVec.toNat (opOf_eq_of_masked hinitc rfl)
  omega

/-- Settles O3: the row of the opcode decides, with the side condition for INITC; an opcode without a row is refused. -/
theorem decoderRefusesExactlyIllegalWords : Obligations.DecoderRefusesExactlyIllegalWords := by
  intro w
  change _ ↔ IllegalWord w
  unfold decode
  split
  case h_2 hop =>
    rw [checkClockUse_ifMatches_eq_error_iff, IllegalWord, matches_no_row_iff hop rfl]
    simp only [Instr.wellFormed, useClkOf_eq_getLsbD, ckHighOf, Bool.or_eq_false_iff, beq_eq_false_iff_ne]
    tauto
  case h_23 =>
    refine iff_of_true ⟨_, rfl⟩ (.inl fun row hrow hw => ?_)
    obtain ⟨k, hk, -, hop⟩ := row_of_matches hrow hw
    simp only [imp_false] at *
    omega
  all_goals next hop => exact ifMatches_eq_error_iff.trans (illegalWord_iff_of_not_initc hop rfl (by decide)).symm

end Sys2Proof
end

section
/-! PROOFS. One step of a running sequencer: the decoded command's, an illegal word's, and a refused clock identifier's
(30_encoding R91, R93, R97). -/

namespace Sys2Proof.Machine

theorem stepMove_sequencer {s : State} (h : s.fault = none) : stepMove .sequencer s = sequencerStep s := by
  rw [stepMove, h]

theorem stepMove_await {s : State} (h : s.fault = none) (hbusy : s.busy = true) :
    stepMove .await s = sequencerStep s := by
  rw [stepMove, h]
  exact if_pos hbusy

theorem step_of_script_nil {s : State} (h : s.script = []) : step s = stepMove .sequencer s := by
  rw [step, scheduledStep, h]

theorem step_of_script_cons {s : State} {m : Move} {rest : List Move} (h : s.script = m :: rest) :
    step s = stepMove m (s.popScript m rest) := by
  rw [step, scheduledStep, h]

theorem sequencerStep_of_decode_ok {s : State} {l : Latch} {i : Instr} (hl : s.phase = .running l)
    (hd : decode l.cmd = .ok i) : sequencerStep s = exec i s := by
  rw [sequencerStep, hl]
  simp only [hd]

theorem sequencerStep_of_decode_error {s : State} {l : Latch} {e : DecodeError} (hl : s.phase = .running l)
    (hd : decode l.cmd = .error e) : sequencerStep s = .next (s.finish .illegal 0) := by
  rw [sequencerStep, hl]
  simp only [hd]

/-- Settles O5: each of the three scripts has the sequencer step next. -/
theorem stepRunsTheDecodedCommand : Obligations.StepRunsTheDecodedCommand := by
  intro s l i hf hl hd
  refine ⟨fun hs => ?_, fun rest hs => ?_, fun rest hs => ?_⟩
  · rw [step_of_script_nil hs, stepMove_sequencer hf]
    exact sequencerStep_of_decode_ok hl hd
  · have hpop : s.popScript .sequencer rest = { s with script := rest } := if_neg fun h => nomatch h.1
    rw [step_of_script_cons hs, hpop]
    exact (stepMove_sequencer (s := { s with script := rest }) hf).trans (sequencerStep_of_decode_ok hl hd)
  · have hbusy : s.busy = true := by rw [State.busy, hl]
    have hpop : s.popScript .await rest = s := if_pos ⟨rfl, hbusy⟩
    rw [step_of_script_cons hs, hpop, stepMove_await hf hbusy]
    exact sequencerStep_of_decode_ok hl hd

/-- Settles O6: the sequencer's step on a word that does not decode is a finish. -/
theorem illegalWordFinishesWithErrIllegal : Obligations.IllegalWordFinishesWithErrIllegal := by
  intro s l e hf hl hd
  rw [stepMove_sequencer hf]
  exact sequencerStep_of_decode_error hl hd

/-- CK 2 and 3 name no clock (30_encoding R93). -/
theorem sharedClock_eq_none {ck : BitVec 2} (h : 2 ≤ ck.toNat) : sharedClock ck = none := by
  revert ck
  decide

/-- A command at its start whose pseudocode is a finish performs it, before any access. -/
theorem exec_of_progOf_eq_finish {i : Instr} {s : State} {w a0 a1 r : Word} {e : ErrCode} (hat : s.At w a0 a1 [])
    (hp : progOf i s.params a0 a1 = .finish e r) : exec i s = .next (s.finish e r) := by
  rw [exec_of_stands (stands_at_start hat), hp, Prog.act]

/-- Settles O32: without a clock the pseudocode of each of the four commands is a finish. -/
theorem unrecognizedClockIsRefused : Obligations.UnrecognizedClockIsRefused := by
  intro s w a0 a1 ck ch al pol hat
  refine ⟨rfl, rfl, fun hck => ?_⟩
  have hnone := sharedClock_eq_none hck
  refine ⟨exec_of_progOf_eq_finish hat ?setclk, exec_of_progOf_eq_finish hat ?clkoff,
    exec_of_progOf_eq_finish hat ?setclkf, exec_of_progOf_eq_finish hat ?initc⟩
  case setclk => rw [progOf, progSetclk, hnone]
  case clkoff => rw [progOf, progClkoff, hnone]
  case setclkf => rw [progOf, progSetclkf, hnone]
  case initc => simp [progOf, progInitc, hnone]

end Sys2Proof.Machine
end

section
/-! PROOFS. The bitfield formulas on words: the shift of a mask, and reading back a field that was written (40_bitfield
R110 to R112, R115). -/

namespace Sys2Proof.Machine

/-! ### The shift of a mask (40_bitfield R110) -/

/-- Some bit below 32 of a nonzero word is 1. -/
theorem exists_getLsbD_of_ne_zero {m : Word} (hm : m ≠ 0) : ∃ n < 32, m.getLsbD n = true := by
  by_contra hnone
  push Not at hnone
  exact hm (BitVec.eq_of_getLsbD_eq fun n hn => by simpa using hnone n hn)

/-- The search from the top finds the last number below `n` that satisfies `p`. -/
theorem find?_reverse_range_eq_some {n i : Nat} {p : Nat → Bool} :
    (List.range n).reverse.find? p = some i ↔ p i = true ∧ i < n ∧ ∀ j, i < j → j < n → p j = false := by
  induction n with
  | zero => simp
  | succ n ih =>
    rw [List.range_succ, List.reverse_append, List.reverse_singleton, List.singleton_append, List.find?_cons]
    cases hp : p n with
    | true =>
      simp only [Option.some.injEq]
      refine ⟨fun h => by subst h; exact ⟨hp, by omega, fun j _ _ => by omega⟩, fun ⟨_, hi, htop⟩ => ?_⟩
      by_contra hne
      simpa [hp] using htop n (by omega) (by omega)
    | false =>
      simp only [ih]
      refine and_congr_right fun hpi => ?_
      have hne : i ≠ n := fun e => by simp [e, hp] at hpi
      refine ⟨fun ⟨_, htop⟩ => ⟨by omega, fun j hij hj => ?_⟩,
        fun ⟨_, htop⟩ => ⟨by omega, fun j hij hj => htop j hij (by omega)⟩⟩
      rcases Nat.lt_succ_iff_lt_or_eq.1 hj with h | rfl
      · exact htop j hij h
      · exact hp

section
variable {m : Word} {n : Nat}

theorem shiftLowest_eq_iff (hm : m ≠ 0) :
    shiftLowest m = n ↔ m.getLsbD n = true ∧ ∀ k < n, m.getLsbD k = false := by
  obtain ⟨b, hb, hbit⟩ := exists_getLsbD_of_ne_zero hm
  obtain ⟨i, hi⟩ := Option.isSome_iff_exists.1 (List.find?_isSome.2 ⟨b, List.mem_range.2 hb, hbit⟩)
  rw [shiftLowest, hi, Option.getD_some, ← Option.some_inj, ← hi, List.find?_range_eq_some]
  simp only [List.mem_range, Bool.not_eq_true']
  exact ⟨fun ⟨h, _, hlow⟩ => ⟨h, hlow⟩, fun ⟨h, hlow⟩ => ⟨h, BitVec.lt_of_getLsbD h, hlow⟩⟩

theorem shiftTopmost_eq_iff (hm : m ≠ 0) :
    shiftTopmost m = n ↔ m.getLsbD n = true ∧ ∀ k, n < k → m.getLsbD k = false := by
  obtain ⟨b, hb, hbit⟩ := exists_getLsbD_of_ne_zero hm
  obtain ⟨i, hi⟩ := Option.isSome_iff_exists.1
    (List.find?_isSome.2 ⟨b, List.mem_reverse.2 (List.mem_range.2 hb), hbit⟩)
  rw [shiftTopmost, hi, Option.getD_some, ← Option.some_inj, ← hi, find?_reverse_range_eq_some]
  refine and_congr_right fun h => ⟨fun ⟨_, htop⟩ k hk => ?_,
    fun htop => ⟨BitVec.lt_of_getLsbD h, fun k hk _ => htop k hk⟩⟩
  by_cases hk32 : k < 32
  · exact htop k hk hk32
  · exact BitVec.getLsbD_of_ge m k (by omega)

end

/-- Settles O24: the two searches stop at the lowest and at the topmost set bit. -/
theorem shiftIsLowestOrTopmostSetBit : Obligations.ShiftIsLowestOrTopmostSetBit := by
  intro m hm
  obtain ⟨hlowBit, hlow⟩ := (shiftLowest_eq_iff hm).1 rfl
  obtain ⟨htopBit, htop⟩ := (shiftTopmost_eq_iff hm).1 rfl
  exact ⟨⟨hlowBit, BitVec.lt_of_getLsbD hlowBit, hlow⟩, htopBit, BitVec.lt_of_getLsbD htopBit, htop⟩

/-! ### A field written and read back (40_bitfield R111, R112) -/

/-- What a field reads after its write is the shifted value, cut by the mask, shifted back. -/
theorem extractField_insertField (rule : ShiftRule) (old m v : Word) :
    extractField rule (insertField rule old m v) m = ((v <<< shiftOf rule m) &&& m) >>> shiftOf rule m := by
  simp [extractField, insertField, BitVec.and_or_distrib_right, BitVec.and_assoc]

/-- A value shifted into the mask leaves the bits outside the mask. -/
theorem getLsbD_insertField_of_not_mem {rule : ShiftRule} {old m v : Word} {k : Nat}
    (hv : (v <<< shiftOf rule m) &&& m = v <<< shiftOf rule m) (hk : m.getLsbD k = false) :
    (insertField rule old m v).getLsbD k = old.getLsbD k := by
  have hvk : (v <<< shiftOf rule m).getLsbD k = false := by rw [← hv, BitVec.getLsbD_and, hk, Bool.and_false]
  rw [insertField, BitVec.getLsbD_or, hvk, Bool.or_false, BitVec.getLsbD_and, BitVec.getLsbD_not, hk]
  by_cases hk32 : k < 32
  · simp only [hk32, decide_true, Bool.not_false, Bool.and_true]
  · rw [BitVec.getLsbD_of_ge old k (by omega), Bool.false_and]

/-! ### Contiguous masks (40_bitfield R115) -/

/-- The contiguous mask of width `w` at bit `n`. -/
def contiguousMask (n w : Nat) : Word := BitVec.ofNat 32 (2 ^ w - 1) <<< n

section
variable {n w : Nat}

theorem getLsbD_contiguousMask (hnw : n + w ≤ 32) (k : Nat) :
    (contiguousMask n w).getLsbD k = decide (n ≤ k ∧ k < n + w) := by
  rw [contiguousMask, BitVec.getLsbD_shiftLeft, BitVec.getLsbD_ofNat, Nat.testBit_two_pow_sub_one, Bool.eq_iff_iff]
  simp only [Bool.and_eq_true, Bool.not_eq_true', decide_eq_true_eq, decide_eq_false_iff_not]
  omega

theorem contiguousMask_ne_zero (hw : 1 ≤ w) (hnw : n + w ≤ 32) : contiguousMask n w ≠ 0 := by
  intro h
  have hbit : (contiguousMask n w).getLsbD n = true := by
    rw [getLsbD_contiguousMask hnw]
    exact decide_eq_true (by omega)
  simp [h] at hbit

theorem shiftOf_lowest_contiguousMask (hw : 1 ≤ w) (hnw : n + w ≤ 32) :
    shiftOf .lowest (contiguousMask n w) = n := by
  refine (shiftLowest_eq_iff (contiguousMask_ne_zero hw hnw)).2 ?_
  simp only [getLsbD_contiguousMask hnw, decide_eq_true_eq, decide_eq_false_iff_not]
  exact ⟨by omega, fun k hk => by omega⟩

theorem shiftOf_topmost_contiguousMask (hw : 1 ≤ w) (hnw : n + w ≤ 32) :
    shiftOf .topmost (contiguousMask n w) = n + w - 1 := by
  refine (shiftTopmost_eq_iff (contiguousMask_ne_zero hw hnw)).2 ?_
  simp only [getLsbD_contiguousMask hnw, decide_eq_true_eq, decide_eq_false_iff_not]
  exact ⟨by omega, fun k hk => by omega⟩

/-- A value that fits the width, shifted to the mask's lowest bit, lies in the mask. -/
theorem shiftLeft_and_contiguousMask {v : Word} (hnw : n + w ≤ 32) (hv : v.toNat < 2 ^ w) :
    (v <<< n) &&& contiguousMask n w = v <<< n := by
  refine BitVec.eq_of_getLsbD_eq fun k _ => ?_
  rw [BitVec.getLsbD_and, getLsbD_contiguousMask hnw, BitVec.getLsbD_shiftLeft]
  by_cases hk : k < n + w
  · by_cases hn : n ≤ k <;> simp [hk, hn]
  · have hbit : v.getLsbD (k - n) = false :=
      Nat.testBit_lt_two_pow (hv.trans_le (Nat.pow_le_pow_right (by decide) (by omega)))
    simp [hbit]

/-- Shifted there and back, a value that fits is unchanged. -/
theorem shiftLeft_ushiftRight_of_lt {v : Word} (hnw : n + w ≤ 32) (hv : v.toNat < 2 ^ w) : v <<< n >>> n = v := by
  refine BitVec.eq_of_getLsbD_eq fun k hk => ?_
  rw [BitVec.getLsbD_ushiftRight, BitVec.getLsbD_shiftLeft, Nat.add_sub_cancel_left]
  by_cases hnk : n + k < 32
  · simp [hnk]
  · have hbit : v.getLsbD k = false :=
      Nat.testBit_lt_two_pow (hv.trans_le (Nat.pow_le_pow_right (by decide) (by omega)))
    simp [hbit]

/-- Under a rule that shifts to the mask's lowest bit, a fitting value is read back and the other bits stay. -/
theorem field_roundTrip {rule : ShiftRule} {v : Word} (hnw : n + w ≤ 32)
    (hshift : shiftOf rule (contiguousMask n w) = n) (hv : v.toNat < 2 ^ w) (old : Word) :
    extractField rule (insertField rule old (contiguousMask n w) v) (contiguousMask n w) = v ∧
      ∀ k, (k < n ∨ n + w ≤ k) → (insertField rule old (contiguousMask n w) v).getLsbD k = old.getLsbD k := by
  have hin := shiftLeft_and_contiguousMask hnw hv
  refine ⟨?_, fun k hk => getLsbD_insertField_of_not_mem (by rw [hshift, hin]) ?_⟩
  · rw [extractField_insertField, hshift, hin, shiftLeft_ushiftRight_of_lt hnw hv]
  · rw [getLsbD_contiguousMask hnw]
    exact decide_eq_false (by omega)

/-- Under Topmost a mask of two bits or more cuts off bit 1 of the value, so 2 is not read back. -/
theorem extractField_insertField_topmost_ne (hw : 2 ≤ w) (hnw : n + w ≤ 32) (old : Word) :
    extractField .topmost (insertField .topmost old (contiguousMask n w) 2) (contiguousMask n w) ≠ 2 := by
  intro h
  have hcut : (contiguousMask n w).getLsbD (n + w - 1 + 1) = false := by
    rw [getLsbD_contiguousMask hnw]
    exact decide_eq_false (by omega)
  rw [extractField_insertField, shiftOf_topmost_contiguousMask (by omega) hnw] at h
  have hbit := congrArg (BitVec.getLsbD · 1) h
  simp [hcut] at hbit

end

/-- Settles O25: Lowest shifts to the lowest bit of a contiguous mask, Topmost to its topmost, which is the lowest only
when the mask has one bit. -/
theorem fieldRoundTripHoldsUnderLowest : Obligations.FieldRoundTripHoldsUnderLowest := by
  intro old v n w hw hnw
  refine ⟨fun hv => field_roundTrip hnw (shiftOf_lowest_contiguousMask hw hnw) hv old, ?_, fun hw2 =>
    ⟨2, ?_, extractField_insertField_topmost_ne hw2 hnw old⟩⟩
  · rintro rfl hv
    obtain ⟨hvalue, hrest⟩ := field_roundTrip hnw (shiftOf_topmost_contiguousMask hw hnw) hv old
    exact ⟨hvalue, fun k hk => hrest k (by omega)⟩
  · exact lt_of_lt_of_le (by decide) (Nat.pow_le_pow_right (by decide) hw2)

end Sys2Proof.Machine
end

section
/-! PROOFS. SETF and GETF: refusals before any access, completion, and the frame of SETF (40_bitfield R111 to R114,
60_exceptions R306). -/

namespace Sys2Proof.Machine

/-! ### Field accesses in an uninterrupted run (40_bitfield R111, R112) -/

/-- A read does not change whether a direct write faults. -/
theorem State.directFault_afterRead (s : State) (q r : Reg) : (s.afterRead q).directFault r = s.directFault r := by
  obtain ⟨-, hchans, -⟩ := s.afterRead_frame q
  simp only [State.directFault_eq, State.chan_congr hchans]

/-- A field write is a read, and a write of the word computed from it. -/
theorem Prog.run_setField {p : Params} {r : Reg} {s : State} (n : Nat) (m v : Word) (k : Prog)
    (h : s.directFault r = none) :
    Prog.run (n + 2) (Prog.setField p r m v k) s =
      Prog.run n k ((s.afterRead r).storeReg (insertField p.shiftRule (s.regValue r) m v) r) := by
  simp only [Prog.setField, Prog.run, State.directFault_afterRead, h]

/-- A field read is one read. -/
theorem Prog.run_getField (n : Nat) (p : Params) (r : Reg) (m : Word) (k : Word → Prog) (s : State) :
    Prog.run (n + 1) (Prog.getField p r m k) s =
      Prog.run n (k (extractField p.shiftRule (s.regValue r) m)) (s.afterRead r) := rfl

/-! ### The pseudocode of the accessor (40_bitfield R113, R114) -/

section
variable {regw : BitVec 10} {r : Reg} {p : Params} {m v : Word}

theorem progSetf_of_unmapped (h : regOfWord regw = none) : progSetf regw p m v = .finish .badRegister 0 := by
  rw [progSetf, h]

theorem progGetf_of_unmapped (h : regOfWord regw = none) : progGetf regw p m v = .finish .badRegister 0 := by
  rw [progGetf, h]

theorem progSetf_of_zero (h : regOfWord regw = some r) : progSetf regw p 0 v = .finish .zeroMask 0 := by
  simp [progSetf, h]

theorem progGetf_of_zero (h : regOfWord regw = some r) : progGetf regw p 0 v = .finish .zeroMask 0 := by
  simp [progGetf, h]

theorem progSetf_of_mapped (h : regOfWord regw = some r) (hm : m ≠ 0) :
    progSetf regw p m v = .setField p r m v (.finish .ok (BitVec.ofNat 32 (shiftOf p.shiftRule m))) := by
  simp only [progSetf, h, if_neg hm]

theorem progGetf_of_mapped (h : regOfWord regw = some r) (hm : m ≠ 0) :
    progGetf regw p m v = .getField p r m fun x => .finish .ok x := by
  simp only [progGetf, h, if_neg hm]

end

/-- Settles O29: the pseudocode is a finish, of the unmapped offset first. -/
theorem accessorRefusalsPrecedeAnyAccess : Obligations.AccessorRefusalsPrecedeAnyAccess := by
  intro s w m v regw hat
  refine ⟨fun hr => ⟨?_, ?_⟩, ?_⟩
  · exact exec_of_progOf_eq_finish hat (progSetf_of_unmapped hr)
  · exact exec_of_progOf_eq_finish hat (progGetf_of_unmapped (v := v) hr)
  · rintro r hr rfl
    exact ⟨exec_of_progOf_eq_finish hat (progSetf_of_zero hr),
      exec_of_progOf_eq_finish hat (progGetf_of_zero (v := v) hr)⟩

/-- Settles O27: SETF is a field write, which does not fault, and a finish. -/
theorem setfCompletes : Obligations.SetfCompletes := by
  intro s w m v regw r hat hm hr hdis
  refine runs_of_run (stands_at_start hat) ?_
  rw [progOf, progSetf_of_mapped hr hm, Prog.run_setField 1 m v _ (State.directFault_eq_none hdis)]
  rfl

/-- Settles O28: GETF is a field read and a finish. -/
theorem getfCompletes : Obligations.GetfCompletes := by
  intro s w m a1 regw r hat hm hr
  refine runs_of_run (stands_at_start hat) ?_
  rw [progOf, progGetf_of_mapped hr hm, Prog.run_getField 1]
  rfl

/-! ### What one register write leaves (10_state R24 to R36) -/

/-- ENA's write changes the enabled bit and the request alone (10_state R24). -/
theorem Chan.enableAct_eq (ch : Chan) (b d : Bool) :
    ch.enableAct b d = { ch with en := (ch.enableAct b d).en, disreq := (ch.enableAct b d).disreq } := by
  unfold Chan.enableAct
  split_ifs <;> rfl

/-- DIS's write changes the request alone (10_state R25). -/
theorem Chan.disableAct_eq (ch : Chan) (b : Bool) :
    ch.disableAct b = { ch with disreq := (ch.disableAct b).disreq } := by
  unfold Chan.disableAct
  split_ifs <;> rfl

/-- The stored registers are CLK and the channels' (10_state R36). -/
theorem State.regValue_congr {s t : State} {r : Reg} (hr : r.stores = true) (hclk : t.clk = s.clk)
    (hchans : t.chans = s.chans) : t.regValue r = s.regValue r := by
  cases r with
  | clk => exact hclk
  | ena | dis | sr => cases hr
  | _ c => simp only [State.regValue, State.chan_congr hchans]

/-- A channel after a register write, field by field (10_state R24 to R34). -/
theorem State.storeReg_chan_eq (s : State) (v : Word) (q : Reg) (c : Channel) :
    (s.storeReg v q).chan c =
      { cmr := if q = .cmr c then v else (s.chan c).cmr
        cdty := if q = .cdty c then v else (s.chan c).cdty
        cdtyupd := if q = .cdtyupd c then v else (s.chan c).cdtyupd
        cprd := if q = .cprd c then v else (s.chan c).cprd
        cprdupd := if q = .cprdupd c then v else (s.chan c).cprdupd
        dt := if q = .dt c then v else (s.chan c).dt
        dtupd := if q = .dtupd c then v else (s.chan c).dtupd
        en := ((s.storeReg v q).chan c).en
        disreq := if q = .ena ∨ q = .dis then ((s.storeReg v q).chan c).disreq else (s.chan c).disreq
        pendPrd := if q = .cprdupd c then (s.chan c).en || (s.chan c).pendPrd else (s.chan c).pendPrd
        pendDty := if q = .cdtyupd c then (s.chan c).en || (s.chan c).pendDty else (s.chan c).pendDty
        pendDt := if q = .dtupd c then (s.chan c).en || (s.chan c).pendDt else (s.chan c).pendDt } := by
  cases q with
  | clk | sr => rfl
  | ena => exact (s.writeEna_chan v c).trans (Chan.enableAct_eq _ _ _) |>.trans (by simp [State.storeReg])
  | dis => exact (s.writeDis_chan v c).trans (Chan.disableAct_eq _ _) |>.trans (by simp [State.storeReg])
  | _ d =>
    by_cases hd : c = d
    · subst hd
      simp [State.storeReg, Chan.writePrdShadow, Chan.writeDtyShadow, Chan.writeDtShadow]
    · simp [State.storeReg, State.setChan_chan_of_ne _ _ _ _ hd, Ne.symm hd]

/-- A write leaves every stored register but its own. -/
theorem State.regValue_storeReg_of_ne (s : State) (v : Word) {q r : Reg} (hr : r.stores = true) (h : q ≠ r) :
    (s.storeReg v q).regValue r = s.regValue r := by
  cases r with
  | clk => exact s.storeReg_clk v q h
  | ena | dis | sr => cases hr
  | _ c =>
    simp only [State.regValue]
    rw [State.storeReg_chan_eq]
    exact if_neg h

/-! ### The frame of SETF -/

/-- A step of a command leaves CLK and the channels, or stores one word in a register its pseudocode may write. -/
theorem exec_block {i : Instr} {W : Reg → Word → Prop} {s t : State} (hW : ∀ p a0 a1, (progOf i p a0 a1).Only W)
    (h : exec i s = .next t) :
    (t.clk = s.clk ∧ t.chans = s.chans) ∨
      ∃ r v, W r v ∧ t.clk = (s.storeReg v r).clk ∧ t.chans = (s.storeReg v r).chans := by
  rcases exec_of_only hW h with rfl | ⟨e, r, rfl⟩ | ⟨r, rfl⟩ | ⟨r, v, hr, rfl⟩ | rfl
  · exact .inl ⟨rfl, rfl⟩
  · exact .inl ⟨rfl, rfl⟩
  · obtain ⟨hclk, hchans, -⟩ := s.afterRead_frame r
    exact .inl ⟨hclk, hchans⟩
  · cases hf : s.directFault r with
    | some f => exact .inl (by rw [State.writeStep_of_fault hf]; exact ⟨rfl, rfl⟩)
    | none => exact .inr ⟨r, v, hr, by rw [State.writeStep_of_ok hf]; exact ⟨rfl, rfl⟩⟩
  · exact .inl ⟨rfl, rfl⟩

/-- SETF writes the register it names alone. -/
theorem only_progSetf (regw : BitVec 10) (p : Params) (m v : Word) :
    (progOf (.setf regw) p m v).Only fun r _ => regOfWord regw = some r := by
  dsimp only [progOf, progSetf]
  split
  · trivial
  · next r hr =>
    split
    · trivial
    · exact .setField (fun _ => hr) trivial

/-- Settles O55: a step of SETF writes one word in the register it names at most. -/
theorem setfFrame : Obligations.SetfFrame := by
  intro regw s t h
  rcases exec_block (only_progSetf regw) h with ⟨hclk, hchans⟩ | ⟨q, v, hq, hclk, hchans⟩
  · have hchan := State.chan_congr hchans
    exact ⟨fun r hr _ => State.regValue_congr hr hclk hchans, by simp [hchan], by simp [hchan]⟩
  · simp only [State.chan_congr hchans, hq, ne_eq, Option.some.injEq]
    refine ⟨fun r hr hne => ?_, fun hena hdis c => ⟨?_, ?_⟩, fun c => ⟨?_, ?_, ?_⟩⟩
    · rw [State.regValue_congr hr hclk hchans, s.regValue_storeReg_of_ne v hr hne]
    · simp [State.storeReg_chan_en, hena]
    · rw [State.storeReg_chan_eq]
      exact if_neg (not_or.2 ⟨hena, hdis⟩)
    all_goals
      intro hne
      rw [State.storeReg_chan_eq]
      exact if_neg hne

end Sys2Proof.Machine
end

section
/-! PROOFS. SETCLK and CLKOFF to their finish (41_clock R130 to R133). -/

namespace Sys2Proof.Machine

/-! ### The clock primitives in an uninterrupted run (41_clock R130, R131) -/

/-- CLK after set_clock: the prescaler field, then the divisor field, under the clock's masks (R130). -/
def SharedClock.setWord (ck : SharedClock) (rule : ShiftRule) (old pre div : Word) : Word :=
  insertField rule (insertField rule old ck.preMask pre) ck.divMask div

/-- set_clock is four accesses, two of each field. -/
theorem Prog.run_setClock (n : Nat) (p : Params) (ck : SharedClock) (pre div : Word) (k : Prog) (s : State) :
    Prog.run (n + 4) (Prog.setClock p ck pre div k) s =
      Prog.run n k (s.setClk (ck.setWord p.shiftRule s.clk pre div)) := by
  rw [Prog.setClock, Prog.run_setField (n + 2) _ _ _ rfl, Prog.run_setField n _ _ _ rfl]
  rfl

/-- turn_off_clock is two accesses. -/
theorem Prog.run_turnOffClock (n : Nat) (p : Params) (ck : SharedClock) (k : Prog) (s : State) :
    Prog.run (n + 2) (Prog.turnOffClock p ck k) s =
      Prog.run n k (s.setClk (insertField p.shiftRule s.clk ck.divMask 0)) :=
  Prog.run_setField n _ _ _ rfl

/-! ### The words they leave, with masks and shifts written out -/

/-- A field write is `putField` at the shift of its mask. -/
theorem insertField_eq_putField {rule : ShiftRule} {m : Word} {sh : Nat} (h : shiftOf rule m = sh) (old v : Word) :
    insertField rule old m v = putField old m v sh := by
  rw [insertField, h, putField]

theorem SharedClock.setWord_a (rule : ShiftRule) (old pre div : Word) :
    SharedClock.a.setWord rule old pre div =
      putField (putField old 0xF00 pre (rule.pick 8 11)) 0xFF div (rule.pick 0 7) :=
  (insertField_eq_putField (shiftOf_diva rule) _ div).trans
    (congrArg (putField · 0xFF div (rule.pick 0 7)) (insertField_eq_putField (shiftOf_prea rule) old pre))

theorem SharedClock.setWord_b (rule : ShiftRule) (old pre div : Word) :
    SharedClock.b.setWord rule old pre div =
      putField (putField old 0x0F000000 pre (rule.pick 24 27)) 0x00FF0000 div (rule.pick 16 23) :=
  (insertField_eq_putField (shiftOf_divb rule) _ div).trans
    (congrArg (putField · 0x00FF0000 div (rule.pick 16 23)) (insertField_eq_putField (shiftOf_preb rule) old pre))

/-- Writing 0 to a field clears it, whatever the shift. -/
theorem insertField_zero (rule : ShiftRule) (old m : Word) : insertField rule old m 0 = old &&& ~~~m := by
  simp [insertField]

/-! ### The two commands (41_clock R132, R133) -/

section
variable {s : State} {w a0 a1 : Word} {ck : BitVec 2} {clk : SharedClock}

theorem runs_setclk (hat : s.At w a0 a1 []) (hck : sharedClock ck = some clk) :
    Runs (.setclk ck) 5 s
      ((s.setClk (clk.setWord s.params.shiftRule s.clk (a0 >>> 8 &&& 0xF) (a0 &&& 0xFF))).finish .ok 0) := by
  refine runs_of_run (stands_at_start hat) ?_
  simp only [progOf, progSetclk, hck, argPreA_eq, argDivA_eq]
  exact Prog.run_setClock 1 _ _ _ _ _ s

theorem runs_clkoff (hat : s.At w a0 a1 []) (hck : sharedClock ck = some clk) :
    Runs (.clkoff ck) 3 s ((s.setClk (s.clk &&& ~~~clk.divMask)).finish .ok 0) := by
  refine runs_of_run (stands_at_start hat) ?_
  simp only [progOf, progClkoff, hck]
  rw [Prog.run_turnOffClock 1, insertField_zero]
  rfl

end

/-- Settles O31: each command is one primitive on the clock its identifier names, and a finish. -/
theorem clockCommandsComplete : Obligations.ClockCommandsComplete := by
  intro s w a0 a1 hat
  have hseta := runs_setclk (ck := 0) (clk := .a) hat rfl
  have hsetb := runs_setclk (ck := 1) (clk := .b) hat rfl
  rw [SharedClock.setWord_a] at hseta
  rw [SharedClock.setWord_b] at hsetb
  exact ⟨hseta, hsetb, runs_clkoff (clk := .a) hat rfl, runs_clkoff (clk := .b) hat rfl⟩

end Sys2Proof.Machine
end

section
/-! PROOFS. The frames of SETCLK, CLKOFF and INITP, which access CLK alone, and of ENABLE and DISABLE, which write their
mask to ENA or DIS (41_clock R132 to R134, 44_lifecycle R240, 42_channel R151, R153). -/

namespace Sys2Proof.Machine

/-! ### Commands that access CLK alone -/

/-- Every register access of `p`, read or write, is to a register `R` allows; the wait reads SR (42_channel R152). -/
def Prog.Accesses (R : Reg → Prop) : Prog → Prop
  | .finish _ _ => True
  | .read r k => R r ∧ ∀ v, (k v).Accesses R
  | .write r _ k => R r ∧ k.Accesses R
  | .waitClear _ k => R .sr ∧ k.Accesses R

section
variable {R : Reg → Prop} {p : Params} {k : Prog}

theorem Prog.Accesses.after {q : Prog} (h : q.Accesses R) (v : Word) : (q.after v).Accesses R := by
  cases q with
  | finish e r => exact h
  | read r k => exact h.2 v
  | write r x k => exact h.2
  | waitClear m k => exact h.2

/-- What remains of a command accesses nothing the whole does not. -/
theorem Prog.Accesses.resume {q : Prog} (h : q.Accesses R) (vs : List Word) : (q.resume vs).Accesses R := by
  induction vs generalizing q with
  | nil => exact h
  | cons v vs ih => exact ih (h.after v)

theorem Prog.Accesses.setField {r : Reg} {m v : Word} (hr : R r) (hk : k.Accesses R) :
    (Prog.setField p r m v k).Accesses R :=
  ⟨hr, fun _ => ⟨hr, hk⟩⟩

theorem Prog.Accesses.setClock {ck : SharedClock} {pre div : Word} (hr : R .clk) (hk : k.Accesses R) :
    (Prog.setClock p ck pre div k).Accesses R :=
  .setField hr (.setField hr hk)

theorem Prog.Accesses.setClockIf {ck : SharedClock} {pre div : Word} (hr : R .clk) (hk : k.Accesses R) :
    (Machine.setClockIf p ck pre div k).Accesses R := by
  unfold Machine.setClockIf
  split
  · exact hk
  · exact .setClock hr hk

end

/-- An access of CLK, or a finish, leaves the channels, the fault mark and the draws. -/
theorem Prog.Accesses.act_frame {q : Prog} (h : q.Accesses (· = .clk)) (s : State) :
    (q.act s).chans = s.chans ∧ (q.act s).fault = s.fault ∧ (q.act s).draws = s.draws := by
  cases q with
  | finish e r => exact ⟨rfl, rfl, rfl⟩
  | read r k =>
    obtain ⟨rfl, -⟩ := h
    exact ⟨rfl, rfl, rfl⟩
  | write r v k =>
    obtain ⟨rfl, -⟩ := h
    exact ⟨rfl, rfl, rfl⟩
  | waitClear m k => exact nomatch h.1

/-- SETCLK, CLKOFF and INITP access CLK alone. -/
theorem accesses_clk {i : Instr} (hi : i = .initp ∨ ∃ ck, i = .setclk ck ∨ i = .clkoff ck) (p : Params) (a0 a1 : Word) :
    (progOf i p a0 a1).Accesses (· = .clk) := by
  rcases hi with rfl | ⟨ck, rfl | rfl⟩
  · exact .setClockIf rfl (.setClockIf rfl trivial)
  · dsimp only [progOf, progSetclk]
    split
    · trivial
    · exact .setClock rfl trivial
  · dsimp only [progOf, progClkoff]
    split
    · trivial
    · exact .setField rfl trivial

/-- A step of a command that accesses CLK alone leaves the channels, the fault mark and the draws. -/
theorem exec_frame_of_accesses_clk {i : Instr} {s t : State} (hi : ∀ p a0 a1, (progOf i p a0 a1).Accesses (· = .clk))
    (h : exec i s = .next t) : t.chans = s.chans ∧ t.fault = s.fault ∧ t.draws = s.draws := by
  rcases exec_inv h with ⟨-, rfl⟩ | ⟨q, ⟨l, -, rfl⟩, rfl⟩
  · exact ⟨rfl, rfl, rfl⟩
  · exact ((hi s.params l.arg0 l.arg1).resume l.replies).act_frame s

/-! ### Commands that write a mask to ENA or DIS -/

/-- A step of a command that writes no direct register leaves the fault mark (10_state R40). -/
theorem exec_fault_of_indirect {i : Instr} {W : Reg → Word → Prop} {s t : State}
    (hW : ∀ p a0 a1, (progOf i p a0 a1).Only W) (hdirect : ∀ r v, W r v → r.direct = none) (h : exec i s = .next t) :
    t.fault = s.fault := by
  rcases exec_of_only hW h with rfl | ⟨e, r, rfl⟩ | ⟨r, rfl⟩ | ⟨r, v, hr, rfl⟩ | rfl
  · rfl
  · rfl
  · obtain ⟨-, -, -, -, -, -, -, -, hfault, -⟩ := s.afterRead_frame r
    exact hfault
  · have hdf : s.directFault r = none := by rw [State.directFault_eq, hdirect r v hr]
    obtain ⟨-, -, -, -, -, -, hfault, -⟩ := s.storeReg_frame v r
    rw [State.writeStep_of_ok hdf]
    exact hfault
  · rfl

/-- A write of ENA or DIS leaves the channels it does not name, and of the others all but the enabled and the
disable-request bit (10_state R24, R25). -/
theorem State.storeReg_chan_frame {r : Reg} (hr : r = .ena ∨ r = .dis) (s : State) (v : Word) (c : Channel) :
    (chBit v c = false → (s.storeReg v r).chan c = s.chan c) ∧
      (s.storeReg v r).chan c =
        { s.chan c with en := ((s.storeReg v r).chan c).en, disreq := ((s.storeReg v r).chan c).disreq } := by
  constructor
  · intro hc
    rcases hr with rfl | rfl
    · simp [State.storeReg, hc]
    · simp [State.storeReg, hc]
  · rcases hr with rfl | rfl
    · exact s.storeReg_chan_eq v .ena c
    · exact s.storeReg_chan_eq v .dis c

/-- ENABLE and DISABLE write their mask, to ENA or DIS (42_channel R151, R153). -/
theorem only_enable_disable {i : Instr} {chm : BitVec 8} (hi : i = .enable chm ∨ i = .disable chm) (p : Params)
    (a0 a1 : Word) : (progOf i p a0 a1).Only fun r v => (r = .ena ∨ r = .dis) ∧ v = maskWord chm := by
  rcases hi with rfl | rfl
  · exact ⟨⟨.inl rfl, rfl⟩, trivial⟩
  · exact .disable ⟨.inr rfl, rfl⟩ trivial

/-- A step of ENABLE or DISABLE writes the mask to ENA or DIS at most. -/
theorem exec_frame_of_enable_disable {i : Instr} {chm : BitVec 8} {s t : State}
    (hi : i = .enable chm ∨ i = .disable chm) (h : exec i s = .next t) :
    t.clk = s.clk ∧ t.fault = s.fault ∧
      ∀ c : Channel, (chm.getLsbD c.val = false → t.chan c = s.chan c) ∧
        t.chan c = { s.chan c with en := (t.chan c).en, disreq := (t.chan c).disreq } := by
  have hfault : t.fault = s.fault := by
    refine exec_fault_of_indirect (only_enable_disable hi) ?_ h
    rintro r v ⟨rfl | rfl, -⟩ <;> rfl
  rcases exec_block (only_enable_disable hi) h with ⟨hclk, hchans⟩ | ⟨r, v, ⟨hr, rfl⟩, hclk, hchans⟩
  · refine ⟨hclk, hfault, fun c => ?_⟩
    rw [State.chan_congr hchans c]
    exact ⟨fun _ => rfl, rfl⟩
  · have hne : r ≠ .clk := by rcases hr with rfl | rfl <;> nofun
    refine ⟨hclk.trans (s.storeReg_clk _ r hne), hfault, fun c => ?_⟩
    rw [State.chan_congr hchans c, ← chBit_maskWord]
    exact s.storeReg_chan_frame hr (maskWord chm) c

/-- Settles O53: the first three access CLK alone, the other two write their mask to ENA or DIS alone. -/
theorem clockAndEnableFrames : Obligations.ClockAndEnableFrames :=
  fun _ _ _ h =>
    ⟨fun hi => exec_frame_of_accesses_clk (accesses_clk hi) h, fun _ hi => exec_frame_of_enable_disable hi h⟩

end Sys2Proof.Machine
end

section
/-! PROOFS. The channel commands to their finish (42_channel R150 to R168). -/

namespace Sys2Proof.Machine

/-! ### The channel fields as words (10_state R48, 40_bitfield R111, R112) -/

/-- Clearing a mask before setting it changes nothing. -/
theorem and_not_or_self (x m : Word) : x &&& ~~~m ||| m = x ||| m := by
  refine BitVec.eq_of_getLsbD_eq fun n hn => ?_
  simp only [BitVec.getLsbD_or, BitVec.getLsbD_and, BitVec.getLsbD_not, hn, decide_true, Bool.true_and]
  cases x.getLsbD n <;> cases m.getLsbD n <;> rfl

/-- A field read with the shift of its mask written out. -/
theorem extractField_of_shiftOf {rule : ShiftRule} {m : Word} {sh : Nat} (h : shiftOf rule m = sh) (x : Word) :
    extractField rule x m = (x &&& m) >>> sh := by
  rw [extractField, h]

/-- A field of one bit reads as 1 or 0 (42_channel R166). -/
theorem extractField_calg (rule : ShiftRule) (x : Word) :
    extractField rule x calgMask = if x.getLsbD 8 = true then 1 else 0 := by
  have hbit : x &&& calgMask = if x.getLsbD 8 = true then 0x100 else 0 := BitVec.and_twoPow x 8
  rw [extractField, hbit]
  split
  · exact congrArg (0x100#32 >>> ·) (shiftOf_calg rule)
  · exact BitVec.zero_ushiftRight

theorem insertField_calg_argBit (rule : ShiftRule) (old a : Word) :
    insertField rule old calgMask (argBit a) = if a.getLsbD 0 = true then old ||| 0x100 else old &&& 0xFFFFFEFF := by
  rw [argBit_eq]
  split
  · exact (insertField_eq_putField (shiftOf_calg rule) old 1).trans (and_not_or_self old 0x100)
  · exact insertField_zero rule old calgMask

theorem insertField_cpol_argBit (rule : ShiftRule) (old a : Word) :
    insertField rule old cpolMask (argBit a) = if a.getLsbD 0 = true then old ||| 0x200 else old &&& 0xFFFFFDFF := by
  rw [argBit_eq]
  split
  · exact (insertField_eq_putField (shiftOf_cpol rule) old 1).trans (and_not_or_self old 0x200)
  · exact insertField_zero rule old cpolMask

/-! ### The channel primitives in an uninterrupted run (42_channel R150 to R162) -/

/-- An SR read shows the enabled bit of channel `c` (10_state R26). -/
theorem Prog.run_readSr {n : Nat} {k : Word → Prog} {s : State} {t : Option State} (c : Channel)
    (h : ∀ sr, chBit sr c = (s.chan c).en → Prog.run n (k sr) s = t) : Prog.run (n + 1) (.read .sr k) s = t :=
  h s.srWord (chBit_srWord s c)

section
variable {c : Channel} {s : State} (n : Nat) (p : Params) (m v : Word) (k : Prog)

theorem Prog.run_setField_cmr :
    Prog.run (n + 2) (Prog.setField p (.cmr c) m v k) s =
      Prog.run n k (s.setChan c { s.chan c with cmr := insertField p.shiftRule (s.chan c).cmr m v }) :=
  Prog.run_setField n m v k rfl

/-- On an enabled channel set_period writes the shadow register and arms the transfer (R158). -/
theorem Prog.run_setPeriod_of_enabled (h : (s.chan c).en = true) :
    Prog.run (n + 3) (Prog.setPeriod p c v k) s =
      Prog.run n k (s.setChan c { s.chan c with
        cprdupd := putField (s.chan c).cprdupd 0xFFFF v (p.shiftRule.pick 0 15), pendPrd := true }) := by
  refine Prog.run_readSr c fun sr hsr => ?_
  rw [if_pos (hsr.trans h), Prog.run_setField n _ _ _ rfl, insertField_half]
  simp only [State.afterRead, State.storeReg, State.regValue, Chan.writePrdShadow, h, Bool.true_or]

/-- On a disabled channel set_period writes the direct register (R158). -/
theorem Prog.run_setPeriod_of_disabled (h : (s.chan c).en = false) :
    Prog.run (n + 3) (Prog.setPeriod p c v k) s =
      Prog.run n k (s.setChan c { s.chan c with
        cprd := putField (s.chan c).cprd 0xFFFF v (p.shiftRule.pick 0 15) }) := by
  have hok : s.directFault (.cprd c) = none := by simp [State.directFault, h]
  refine Prog.run_readSr c fun sr hsr => ?_
  rw [if_neg (by simp [hsr, h]), Prog.run_setField n _ _ _ hok, insertField_half]
  rfl

/-- On an enabled channel set_duty writes the shadow register and arms the transfer (R160). -/
theorem Prog.run_setDuty_of_enabled (h : (s.chan c).en = true) :
    Prog.run (n + 3) (Prog.setDuty p c v k) s =
      Prog.run n k (s.setChan c { s.chan c with
        cdtyupd := putField (s.chan c).cdtyupd 0xFFFF v (p.shiftRule.pick 0 15), pendDty := true }) := by
  refine Prog.run_readSr c fun sr hsr => ?_
  rw [if_pos (hsr.trans h), Prog.run_setField n _ _ _ rfl, insertField_half]
  simp only [State.afterRead, State.storeReg, State.regValue, Chan.writeDtyShadow, h, Bool.true_or]

/-- On a disabled channel set_duty writes the direct register (R160). -/
theorem Prog.run_setDuty_of_disabled (h : (s.chan c).en = false) :
    Prog.run (n + 3) (Prog.setDuty p c v k) s =
      Prog.run n k (s.setChan c { s.chan c with
        cdty := putField (s.chan c).cdty 0xFFFF v (p.shiftRule.pick 0 15) }) := by
  have hok : s.directFault (.cdty c) = none := by simp [State.directFault, h]
  refine Prog.run_readSr c fun sr hsr => ?_
  rw [if_neg (by simp [hsr, h]), Prog.run_setField n _ _ _ hok, insertField_half]
  rfl

/-- A wait whose channels are all disabled is one access (R152). -/
theorem Prog.run_waitClear (h : ∀ c, chBit m c = true → (s.chan c).en = false) :
    Prog.run (n + 1) (.waitClear m k) s = Prog.run n k s :=
  if_pos ((srWord_and_eq_zero_iff s m).2 h)

end

/-! ### ENABLE and DISABLE (42_channel R150 to R153) -/

theorem Chan.eq_of_enabled {ch : Chan} (h : ch.en = true) : ch = { ch with en := true } := by
  rw [← h]

/-- ENA enables the channel it names, and may cancel the request of one that was enabled (10_state R24). -/
theorem Chan.enableAct_true_cases (ch : Chan) (cancel : Bool) :
    ch.enableAct true cancel = { ch with en := true } ∨
      ch.en = true ∧ ch.enableAct true cancel = { ch with en := true, disreq := false } := by
  cases hen : ch.en with
  | false => exact .inl (by simp [Chan.enableAct, hen])
  | true =>
    by_cases hcancel : (ch.disreq && cancel) = true
    · exact .inr ⟨rfl, by simp [Chan.enableAct, hen, hcancel]⟩
    · exact .inl (by simpa [Chan.enableAct, hen, hcancel] using Chan.eq_of_enabled hen)

/-- Settles O35: ENABLE is one write of ENA and a finish, and `enableAct` is what that write does to a channel. -/
theorem enableCompletes : Obligations.EnableCompletes := by
  intro s w a0 a1 chm hat
  refine ⟨(s.writeEna (maskWord chm)).finish .ok 0, runs_of_run (stands_at_start hat) rfl, rfl, rfl, rfl, rfl,
    fun c => ?_⟩
  rw [State.finish_chan, State.writeEna_chan, chBit_maskWord]
  refine ⟨fun hc => ?_, fun hc => ?_⟩
  · rw [hc, Chan.enableAct_en, Bool.or_true]
    exact ⟨rfl, (s.chan c).enableAct_true_cases (chBit s.drawn c)⟩
  · rw [hc, Chan.enableAct_false]

section
variable {s : State} {w a0 a1 : Word} {chm : BitVec 8}

/-- The channels of DISABLE's mask, read off the word it waits on. -/
theorem disabled_of_maskWord (h : ∀ c : Channel, chm.getLsbD c.val = true → (s.chan c).en = false) :
    ∀ c, chBit (maskWord chm) c = true → (s.chan c).en = false := fun c hc =>
  h c (chBit_maskWord chm c ▸ hc)

/-- Behind its DIS write DISABLE stands at the wait (42_channel R153). -/
theorem stands_disable_wait {v : Word} (hat : s.At w a0 a1 [v]) :
    Stands (.disable chm) s (.waitClear (maskWord chm) (.finish .ok 0)) :=
  stands_of_at hat

end

/-- Settles O36: the DIS write names no enabled channel, and the wait ends at its first poll. -/
theorem disableOfDisabledChannelsCompletes : Obligations.DisableOfDisabledChannelsCompletes := by
  intro s w a0 a1 chm hat hdis
  have hmask := disabled_of_maskWord hdis
  refine runs_of_run (stands_at_start hat) ?_
  change Prog.run 2 _ (s.writeDis (maskWord chm)) = _
  rw [State.writeDis_of_disabled hmask, Prog.run_waitClear 1 _ _ hmask]
  rfl

/-- Settles O37: the first step is the DIS write, and the poll of the wait behind it decides. -/
theorem disableWaitsForEveryNamedChannel : Obligations.DisableWaitsForEveryNamedChannel := by
  intro s w a0 a1 v chm
  refine ⟨fun hat => ?request, fun hat hen => ?hold, fun hat hdis => ?goOn⟩
  case request =>
    refine ⟨_, exec_of_stands_indirect_write (stands_at_start hat) rfl, ?_, fun c => ?_⟩
    · rw [State.busy, State.reply_phase_of_running (s := s.storeReg _ .dis) hat]
    · rw [State.reply_chan, State.storeReg, State.writeDis_chan, chBit_maskWord, Chan.disableAct]
      cases (chm.getLsbD c.val && (s.chan c).en) <;> simp
  case hold =>
    obtain ⟨c, hc, hen⟩ := hen
    have hwait : ¬ s.srWord &&& maskWord chm = 0 := fun h0 => by
      have hoff := (srWord_and_eq_zero_iff s (maskWord chm)).1 h0 c ((chBit_maskWord chm c).trans hc)
      simp [hen] at hoff
    rw [exec_of_stands (stands_disable_wait hat), Prog.act, State.waitStep, if_neg hwait]
  case goOn =>
    exact runs_of_run (stands_disable_wait hat) (Prog.run_waitClear 1 _ _ (disabled_of_maskWord hdis))

/-! ### The readers (42_channel R154, R165 to R168) -/

/-- A command whose pseudocode is a field read and a finish with the field. -/
theorem runs_of_getField {i : Instr} {s : State} {w a0 a1 m x : Word} {r : Reg} (hat : s.At w a0 a1 [])
    (hp : progOf i s.params a0 a1 = .getField s.params r m (.finish .ok)) (hr : s.afterRead r = s)
    (hx : extractField s.params.shiftRule (s.regValue r) m = x) : Runs i 2 s (s.finish .ok x) := by
  refine runs_of_run (stands_at_start hat) ?_
  rw [hp, Prog.run_getField 1, hr, hx]
  rfl

/-- Settles O38: each reader is one read, which leaves the state, and a finish with the word read from it. -/
theorem readersComplete : Obligations.ReadersComplete := by
  intro s w a0 a1 c hat
  refine ⟨runs_of_run (stands_at_start hat) ?isen, runs_of_getField hat rfl rfl ?getper,
    runs_of_getField hat rfl rfl ?getalg, runs_of_getField hat rfl rfl ?getpre, runs_of_getField hat rfl rfl ?getdty⟩
  case isen => exact Prog.run_readSr c fun sr hsr => by rw [hsr]; rfl
  case getalg => exact extractField_calg _ _
  case getpre => exact extractField_of_shiftOf (shiftOf_cpre _) _
  case getper | getdty => exact extractField_of_shiftOf (shiftOf_cprd _) _

/-! ### The setters (42_channel R155 to R161) -/

/-- A command whose pseudocode is a field write of CMRc and a finish. -/
theorem runs_of_setField_cmr {i : Instr} {s : State} {c : Channel} {w a0 a1 m v x : Word} (hat : s.At w a0 a1 [])
    (hp : progOf i s.params a0 a1 = .setField s.params (.cmr c) m v (.finish .ok 0))
    (hx : insertField s.params.shiftRule (s.chan c).cmr m v = x) :
    Runs i 3 s ((s.setChan c { s.chan c with cmr := x }).finish .ok 0) := by
  refine runs_of_run (stands_at_start hat) ?_
  rw [hp, Prog.run_setField_cmr 1, hx]
  rfl

/-- Settles O39: each is a field write of CMRc, whose mask is one bit. -/
theorem alignmentAndPolarityComplete : Obligations.AlignmentAndPolarityComplete := fun _ _ _ _ _ hat =>
  ⟨runs_of_setField_cmr hat rfl (insertField_calg_argBit ..), runs_of_setField_cmr hat rfl (insertField_cpol_argBit ..)⟩

/-- Settles O40: SETPRE is a field write of CMRc. -/
theorem selectorCompletes : Obligations.SelectorCompletes := fun _ _ a0 _ _ hat =>
  runs_of_setField_cmr hat rfl
    ((insertField_eq_putField (shiftOf_cpre _) _ _).trans (argSelector_eq a0 ▸ rfl))

/-- Settles O41: each is set_period or set_duty, on the path the enabled bit selects, and a finish. -/
theorem periodAndDutyComplete : Obligations.PeriodAndDutyComplete := by
  intro s w a0 a1 c hat
  rw [← argHalf_eq]
  exact ⟨fun hen => ⟨runs_of_run (stands_at_start hat) (Prog.run_setPeriod_of_enabled 1 _ _ _ hen),
      runs_of_run (stands_at_start hat) (Prog.run_setDuty_of_enabled 1 _ _ _ hen)⟩,
    fun hen => ⟨runs_of_run (stands_at_start hat) (Prog.run_setPeriod_of_disabled 1 _ _ _ hen),
      runs_of_run (stands_at_start hat) (Prog.run_setDuty_of_disabled 1 _ _ _ hen)⟩⟩

/-! ### RESETC (42_channel R162, R163) -/

/-- Settles O42: RESETC is reset_channel and a finish; behind the wait it zeroes the seven registers. -/
theorem resetcZeroesTheChannel : Obligations.ResetcZeroesTheChannel := by
  intro s w a0 a1 c
  refine ⟨fun hat hq => ?_, fun hat hen => ?_, fun v hat => ?_⟩
  · exact runs_of_run (stands_at_start hat) (Prog.run_resetChannel 1 _ _ _ _ hq)
  · exact exec_of_stands_disable hat (stands_at_start hat) hen
  · have hwait : Stands (.resetc c) s (.waitClear (channelBit c)
        (.zeroAll s.params (Prog.channelRegs c) (.finish .ok 0))) := stands_of_at hat
    refine ⟨exec_of_stands_wait hwait, fun hq => runs_of_run hwait ?_⟩
    have hdis : s.srWord &&& channelBit c = 0 := (srWord_and_channelBit_eq_zero_iff s c).2 hq.1
    exact (if_pos hdis).trans (Prog.run_zeroAll 1 _ _ _ _ hq)

end Sys2Proof.Machine
end

section
/-! PROOFS. INITC to its finish, on the local path and with a shared clock (42_channel R164, 43_resolver R200 to R210). -/

namespace Sys2Proof.Machine

/-! ### The searches and their payloads (43_resolver R201 to R203, R210) -/

/-- A search of the ladder finds the first index in range. -/
theorem FirstInRange.find? {candidate : Nat → Nat} {max i : Nat} (h : FirstInRange candidate max i) :
    ((List.range Config.ladderSize).find? fun j => candidate j ≤ max) = some i := by
  obtain ⟨hi, hin, hbefore⟩ := h
  rw [List.find?_range_eq_some]
  exact ⟨decide_eq_true hin, List.mem_range.2 (Nat.lt_succ_of_le hi), fun j hj => by simpa using hbefore j hj⟩

theorem localSearch_eq_some {F f k i : Nat} (h : FirstInRange (candidatePeriod F f k) Config.periodMax i) :
    localSearch F f k = some (i, candidatePeriod F f k i) := by
  rw [localSearch, h.find?, Option.map_some]

theorem sharedSearch_eq_some {F f i : Nat} (h : FirstInRange (candidateDivisor F f) Config.divisorMax i) :
    sharedSearch F f = some (i, candidateDivisor F f i) := by
  rw [sharedSearch, h.find?, Option.map_some]

/-- A value below the shifted one is added to it. -/
theorem shiftLeft_or_ofNat {x sh : Nat} (i : Nat) (h : x < 2 ^ sh) :
    (BitVec.ofNat 32 i <<< sh) ||| BitVec.ofNat 32 x = BitVec.ofNat 32 (i * 2 ^ sh + x) := by
  have hshift : BitVec.ofNat 32 (i <<< sh) = BitVec.ofNat 32 i <<< sh :=
    BitVec.eq_of_toNat_eq (by simp [Nat.shiftLeft_eq])
  rw [← Nat.shiftLeft_eq, Nat.shiftLeft_add_eq_or_of_lt h, BitVec.ofNat_or, hshift]

theorem localPayload_eq {P : Nat} (i : Nat) (h : P ≤ Config.periodMax) :
    localPayload i P = BitVec.ofNat 32 (i * 65536 + P) :=
  shiftLeft_or_ofNat i (Nat.lt_succ_of_le h)

theorem sharedPayload_eq {d : Nat} (i : Nat) (h : d ≤ Config.divisorMax) :
    sharedPayload i d = BitVec.ofNat 32 (i * 256 + d) :=
  shiftLeft_or_ofNat i (Nat.lt_succ_of_le h)

theorem badFrequency_eq_false {p : Params} {f : Word} (hpos : f.toNat ≠ 0) (hle : f.toNat ≤ p.sysClock.toNat) :
    badFrequency p f = false := by
  have hne : f ≠ 0#32 := fun h => hpos (by rw [h]; rfl)
  simpa [badFrequency, hne] using hle

/-- The alignment factor is chosen by the bit CALG names (R200). -/
theorem alignFactor_extractField (rule : ShiftRule) (x : Word) :
    alignFactor (extractField rule x calgMask) = if x.getLsbD 8 = true then 2 else 1 := by
  rw [extractField_calg]
  cases x.getLsbD 8 <;> rfl

/-! ### The resolver paths of a disabled channel in an uninterrupted run (43_resolver R204, R206) -/

theorem Prog.disableIf_false (c : Channel) (k : Prog) : Prog.disableIf false c k = k := rfl

theorem Prog.enableIf_false (c : Channel) (k : Prog) : Prog.enableIf false c k = k := rfl

section
variable {p : Params} {c : Channel} {s : State} {f : Word} {i : Nat}

/-- resolve_local of a frequency that resolves: period and selector in seven accesses. -/
theorem Prog.run_resolveLocal {P : Nat} (n : Nat) (k : Except ErrCode Word → Prog) (hf : badFrequency p f = false)
    (hsearch : localSearch (Config.freq p) f.toNat
      (alignFactor (extractField p.shiftRule (s.chan c).cmr calgMask)) = some (i, P))
    (hP : P ≠ 0) (hen : (s.chan c).en = false) :
    Prog.run (n + 7) (Prog.resolveLocal p c f k) s =
      Prog.run n (k (.ok (localPayload i P))) (s.setChan c { s.chan c with
        cprd := putField (s.chan c).cprd 0xFFFF (BitVec.ofNat 32 P) (p.shiftRule.pick 0 15)
        cmr := insertField p.shiftRule (s.chan c).cmr cpreMask (BitVec.ofNat 32 i) }) := by
  rw [Prog.resolveLocal, if_neg (by simp [hf]), Prog.run_getField]
  simp only [State.regValue, State.afterRead, hsearch, if_neg hP]
  refine Prog.run_readSr c fun sr hsr => ?_
  rw [hsr.trans hen, Prog.disableIf_false, Prog.enableIf_false, Prog.run_setPeriod_of_disabled (n + 2) _ _ _ hen,
    Prog.run_setField_cmr]
  simp only [State.setChan_chan_self, State.setChan_setChan]

/-- resolve_shared of a frequency that resolves: the clock and the selector in seven accesses. -/
theorem Prog.run_resolveShared {clk : SharedClock} {d : Nat} (n : Nat) (k : Except ErrCode Word → Prog)
    (hf : badFrequency p f = false) (hsearch : sharedSearch (Config.freq p) f.toNat = some (i, d))
    (hen : (s.chan c).en = false) :
    Prog.run (n + 7) (Prog.resolveShared p c f clk k) s =
      Prog.run n (k (.ok (sharedPayload i d)))
        ((s.setClk (clk.setWord p.shiftRule s.clk (BitVec.ofNat 32 i) (BitVec.ofNat 32 d))).setChan c { s.chan c with
          cmr := insertField p.shiftRule (s.chan c).cmr cpreMask clk.selector }) := by
  rw [Prog.resolveShared, if_neg (by simp [hf]), hsearch]
  refine Prog.run_readSr c fun sr hsr => ?_
  rw [hsr.trans hen, Prog.disableIf_false, Prog.enableIf_false, Prog.run_setClock (n + 2), Prog.run_setField_cmr]
  rfl

end

/-- INITC's shared path succeeds as resolve_shared does: its alignment read is behind an error alone (R302). -/
theorem Prog.run_initcResolve_shared {p : Params} {c : Channel} {s : State} {f : Word} {i d : Nat} {clk : SharedClock}
    (n : Nat) (k : Except ErrCode Word → Prog) (hf : badFrequency p f = false)
    (hsearch : sharedSearch (Config.freq p) f.toNat = some (i, d)) (hen : (s.chan c).en = false) :
    Prog.run (n + 7) (initcResolve p c f (some clk) k) s =
      Prog.run n (k (.ok (sharedPayload i d)))
        ((s.setClk (clk.setWord p.shiftRule s.clk (BitVec.ofNat 32 i) (BitVec.ofNat 32 d))).setChan c { s.chan c with
          cmr := insertField p.shiftRule (s.chan c).cmr cpreMask clk.selector }) := by
  unfold initcResolve
  exact Prog.run_resolveShared n _ hf hsearch hen

/-! ### INITC around its resolver path (42_channel R164) -/

/-- INITC behind its resolver path, for a channel whose enabled bit was `en`. -/
def initcAfter (p : Params) (c : Channel) (al : Alignment) (pol : Polarity) (duty : Word) (en : Bool) :
    Except ErrCode Word → Prog
  | .error e => .enableIf en c (.finish e 0)
  | .ok payload =>
    .setField p (.cmr c) calgMask (alignWord al) <|
    .setField p (.cmr c) cpolMask (polWord pol) <|
    .setDuty p c duty <|
    .enableIf en c (.finish .ok payload)

/-- INITC's body is an SR read, the disable of a channel it shows enabled, the resolver path and `initcAfter`. -/
theorem initcBody_eq (p : Params) (c : Channel) (al : Alignment) (pol : Polarity) (f duty : Word)
    (clk : Option SharedClock) :
    initcBody p c al pol f duty clk = .read .sr fun sr =>
      .disableIf (chBit sr c) c (initcResolve p c f clk (initcAfter p c al pol duty (chBit sr c))) :=
  rfl

/-- Channel `ch` with the selector, alignment, polarity and duty cycle INITC writes while it is disabled. -/
def Chan.withMode (ch : Chan) (rule : ShiftRule) (sel : Word) (al : Alignment) (pol : Polarity) (duty : Word) : Chan :=
  { ch with cmr := initcMode rule ch.cmr sel al pol, cdty := putField ch.cdty 0xFFFF duty (rule.pick 0 15) }

@[simp] theorem Chan.withMode_en (ch : Chan) (rule : ShiftRule) (sel : Word) (al : Alignment) (pol : Polarity)
    (duty : Word) : (ch.withMode rule sel al pol duty).en = ch.en := rfl

/-- The word INITC's three field writes leave in CMRc, with masks and shifts written out. -/
theorem insertField_cmr_eq_initcMode (rule : ShiftRule) (old sel : Word) (al : Alignment) (pol : Polarity) :
    insertField rule (insertField rule (insertField rule old cpreMask sel) calgMask (alignWord al)) cpolMask
      (polWord pol) = initcMode rule old sel al pol := by
  rw [insertField_eq_putField (m := cpolMask) (shiftOf_cpol rule),
    insertField_eq_putField (m := calgMask) (shiftOf_calg rule),
    insertField_eq_putField (m := cpreMask) (shiftOf_cpre rule)]
  cases al <;> cases pol <;> rfl

/-- The writes of INITC behind a success of its resolver path, which wrote the selector `sel` of a disabled channel. -/
theorem Prog.run_initcAfter_ok {p : Params} {c : Channel} {al : Alignment} {pol : Polarity} {duty payload sel : Word}
    {s : State} {ch : Chan} (n : Nat) (en : Bool) (hch : ch.en = false) :
    Prog.run (n + 7) (initcAfter p c al pol duty en (.ok payload))
        (s.setChan c { ch with cmr := insertField p.shiftRule ch.cmr cpreMask sel }) =
      Prog.run n (.enableIf en c (.finish .ok payload)) (s.setChan c (ch.withMode p.shiftRule sel al pol duty)) := by
  rw [initcAfter, Prog.run_setField_cmr (n + 5), Prog.run_setField_cmr (n + 3),
    Prog.run_setDuty_of_disabled n _ _ _ (by simpa using hch)]
  simp only [State.setChan_chan_self, State.setChan_setChan, insertField_cmr_eq_initcMode, Chan.withMode]

section
variable {i : Instr} {s : State} {c : Channel} {al : Alignment} {pol : Polarity} {w f a1 payload : Word}
  {clk : Option SharedClock} (hi : progOf i s.params f a1 = initcBody s.params c al pol f (argHalf a1) clk)
include hi

/-- At its start INITC reads SR. -/
theorem stands_initc_start (hat : s.At w f a1 []) :
    Stands i s (.read .sr fun sr => .disableIf (chBit sr c) c
      (initcResolve s.params c f clk (initcAfter s.params c al pol (argHalf a1) (chBit sr c)))) := by
  rw [← initcBody_eq, ← hi]
  exact stands_at_start hat

/-- Behind the DIS write of a channel SR showed enabled INITC stands at the wait. -/
theorem stands_initc_wait {sr v : Word} (hat : s.At w f a1 [sr, v]) (hsr : sr.getLsbD c.val = true) :
    Stands i s (.waitClear (channelBit c)
      (initcResolve s.params c f clk (initcAfter s.params c al pol (argHalf a1) true))) := by
  refine ⟨_, hat, ?_⟩
  have hbit : chBit sr c = true := hsr
  simp only [hi, initcBody_eq, Prog.resume, List.foldl, Prog.after, hbit, Prog.disableIf, if_true, Prog.disable]

/-- INITC of an enabled channel reads SR and requests the disable. -/
theorem runs_initc_request (hat : s.At w f a1 []) (hen : (s.chan c).en = true) :
    Runs i 2 s (s.disableRequested c w f a1 [s.srWord, channelBit c]) := by
  have hstart := stands_initc_start hi hat
  refine ⟨_, exec_of_stands hstart, _, ?_, rfl⟩
  have hread := hstart.read
  rw [show chBit (s.regValue .sr) c = true from (chBit_srWord s c).trans hen] at hread
  have hat' : (s.readStep .sr).At w f a1 [s.srWord] := State.reply_phase_of_running hat s.srWord
  exact exec_of_stands_disable hat' hread hen

/-- INITC holds at the wait while its channel is enabled (60_exceptions R311). -/
theorem exec_initc_hold {sr v : Word} (hat : s.At w f a1 [sr, v]) (hsr : sr.getLsbD c.val = true)
    (hen : (s.chan c).en = true) : exec i s = .next s :=
  exec_of_stands_wait (stands_initc_wait hi hat hsr) hen

/-- INITC of a disabled channel, from its start or behind the wait for a channel SR showed enabled, which it then enables
again, when its resolver path leaves CLK `cw` and the channel `ch` with the selector `sel`. -/
theorem initc_completes {ch : Chan} {cw sel : Word}
    (hres : ∀ n k, Prog.run (n + 7) (initcResolve s.params c f clk k) s =
      Prog.run n (k (.ok payload))
        ((s.setClk cw).setChan c { ch with cmr := insertField s.params.shiftRule ch.cmr cpreMask sel }))
    (hen : (s.chan c).en = false) (hch : ch.en = false) :
    (s.At w f a1 [] → Runs i 16 s
      (((s.setClk cw).setChan c (ch.withMode s.params.shiftRule sel al pol (a1 &&& 0xFFFF))).finish .ok payload)) ∧
    (∀ sr v : Word, s.At w f a1 [sr, v] → sr.getLsbD c.val = true → Runs i 17 s
      (((s.setClk cw).setChan c
        { ch.withMode s.params.shiftRule sel al pol (a1 &&& 0xFFFF) with en := true }).tick.finish .ok payload)) := by
  rw [← argHalf_eq]
  refine ⟨fun hat => runs_of_run (stands_initc_start hi hat) ?start,
    fun sr v hat hsr => runs_of_run (stands_initc_wait hi hat hsr) ?behindWait⟩
  case start =>
    refine Prog.run_readSr c fun sr hsr => ?_
    rw [hsr.trans hen]
    exact (hres 8 _).trans (Prog.run_initcAfter_ok 1 false hch)
  case behindWait =>
    have hwait : s.srWord &&& channelBit c = 0 := (srWord_and_channelBit_eq_zero_iff s c).2 hen
    rw [Prog.run, if_pos hwait, hres 9, Prog.run_initcAfter_ok 2 true hch]
    refine (Prog.run_enable 1 _ c _ (by simpa using hch)).trans ?_
    rw [State.setChan_chan_self, State.setChan_setChan]
    rfl

end

/-! ### The two paths -/

/-- Past its checks INITC without a clock takes the local path. -/
theorem progOf_initc_local {p : Params} {f : Word} (hf : badFrequency p f = false) (c : Channel) (al : Alignment)
    (pol : Polarity) (a1 : Word) :
    progOf (.initc c al pol false 0) p f a1 = initcBody p c al pol f (argHalf a1) none := by
  simp [progOf, progInitc, hf]

/-- Past its checks INITC with a clock takes the shared path. -/
theorem progOf_initc_shared {p : Params} {f : Word} {ck : BitVec 2} {clk : SharedClock} (hck : sharedClock ck = some clk)
    (hf : badFrequency p f = false) (c : Channel) (al : Alignment) (pol : Polarity) (a1 : Word) :
    progOf (.initc c al pol true ck) p f a1 = initcBody p c al pol f (argHalf a1) (some clk) := by
  simp [progOf, progInitc, hf, hck]

/-- Settles O43: around a local resolution, whose candidate period is the one the alignment of CMRc gives. -/
theorem initcLocalCompletes : Obligations.InitcLocalCompletes := by
  intro s w f a1 c al pol hpos hle
  have hf := badFrequency_eq_false hpos hle
  have hi := progOf_initc_local hf c al pol a1
  refine ⟨runs_initc_request hi, fun sr v => exec_initc_hold hi, ?_⟩
  rintro k i P hk hfirst hPdef hP hen
  rw [← alignFactor_extractField s.params.shiftRule] at hk
  subst hk
  have hsearch := (localSearch_eq_some hfirst).trans (congrArg (fun x => some (i, x)) hPdef.symm)
  have hres := fun n k => Prog.run_resolveLocal n k hf hsearch hP hen
  simp only [localPayload_eq i (hPdef ▸ hfirst.2.1 : P ≤ 65535)] at hres
  exact initc_completes (cw := s.clk)
    (ch := { s.chan c with cprd := putField (s.chan c).cprd 0xFFFF (BitVec.ofNat 32 P) (s.params.shiftRule.pick 0 15) })
    hi hres hen hen

/-- CK 0 and 1 name clocks A and B: the selector and the word of CLK they give. -/
theorem exists_sharedClock {ck : BitVec 2} (h : ck.toNat ≤ 1) :
    ∃ clk, sharedClock ck = some clk ∧ clk.selector = BitVec.ofNat 32 (11 + ck.toNat) ∧
      ∀ rule old pre div, clk.setWord rule old pre div = setClockWord rule ck old pre div := by
  have hck : ck = 0 ∨ ck = 1 := by revert ck; decide
  rcases hck with rfl | rfl
  · exact ⟨.a, rfl, rfl, SharedClock.setWord_a⟩
  · exact ⟨.b, rfl, rfl, SharedClock.setWord_b⟩

/-- Settles O44: around a shared resolution, which writes the clock and its selector. -/
theorem initcSharedCompletes : Obligations.InitcSharedCompletes := by
  intro s w f a1 c al pol ck hckle hpos hle
  obtain ⟨clk, hck, hsel, hword⟩ := exists_sharedClock hckle
  have hf := badFrequency_eq_false hpos hle
  have hi := progOf_initc_shared hck hf c al pol a1
  refine ⟨runs_initc_request hi, fun sr v => exec_initc_hold hi, ?_⟩
  rintro i d hfirst hd hen
  have hsearch := (sharedSearch_eq_some hfirst).trans (congrArg (fun x => some (i, x)) hd.symm)
  have hres := fun n k => Prog.run_initcResolve_shared (clk := clk) n k hf hsearch hen
  simp only [hword, hsel, sharedPayload_eq i (hd ▸ hfirst.2.1 : d ≤ 255)] at hres
  exact initc_completes hi hres hen hen

end Sys2Proof.Machine
end

section
/-! PROOFS. The frames of the reading commands and of the channel setters (42_channel R154 to R168, 40_bitfield R114). -/

namespace Sys2Proof.Machine

/-! ### The reading commands -/

/-- ISEN, the getters and GETF write no register. -/
theorem only_reader {i : Instr}
    (hi : (∃ c, i = .isen c ∨ i = .getper c ∨ i = .getalg c ∨ i = .getpre c ∨ i = .getdty c) ∨ ∃ regw, i = .getf regw)
    (p : Params) (a0 a1 : Word) : (progOf i p a0 a1).Only fun _ _ => False := by
  rcases hi with ⟨c, rfl | rfl | rfl | rfl | rfl⟩ | ⟨regw, rfl⟩
  case inr =>
    dsimp only [progOf, progGetf]
    split
    · trivial
    · split
      · trivial
      · exact fun _ => trivial
  all_goals exact fun _ => trivial

/-- Settles O51: a command that writes no register leaves CLK, the channels and the fault mark. -/
theorem readersChangeNoRegister : Obligations.ReadersChangeNoRegister := by
  intro i s t hi h
  have hfault := exec_fault_of_indirect (only_reader hi) (fun _ _ hw => hw.elim) h
  rcases exec_block (only_reader hi) h with ⟨hclk, hchans⟩ | ⟨_, _, hw, -⟩
  · exact ⟨hclk, hchans, hfault⟩
  · exact hw.elim

/-! ### The setters -/

/-- What may be accessed may be written. -/
theorem Prog.Accesses.only {R : Reg → Prop} {q : Prog} (h : q.Accesses R) : q.Only fun r _ => R r := by
  induction q with
  | finish e r => trivial
  | read r k ih => exact fun v => ih v (h.2 v)
  | write r v k ih => exact ⟨h.1, ih h.2⟩
  | waitClear m k ih => exact ih h.2

/-- An access of a register but ENA and DIS uses up no draw (log entries 5 and 6). -/
theorem Prog.Accesses.act_draws {R : Reg → Prop} {q : Prog} (h : q.Accesses R) (hena : ¬ R .ena) (hdis : ¬ R .dis)
    (s : State) : (q.act s).draws = s.draws := by
  cases q with
  | finish e r => rfl
  | read r k =>
    have hr : s.afterRead r = s :=
      s.afterRead_eq r ⟨fun e => hena (e ▸ h.1), fun e => hdis (e ▸ h.1)⟩
    rw [Prog.act, State.readStep, hr, State.reply_draws]
  | write r v k =>
    dsimp only [Prog.act]
    cases hf : s.directFault r with
    | some f => rw [State.writeStep_of_fault hf, State.raise_draws]
    | none =>
      rw [State.writeStep_of_ok hf, State.reply_draws]
      cases r with
      | ena => exact absurd h.1 hena
      | _ => rfl
  | waitClear m k =>
    dsimp only [Prog.act]
    unfold State.waitStep
    split <;> rfl

/-- Behind an SR read, a field write of one register or the other. -/
theorem Prog.Accesses.bySr {R : Reg → Prop} {p : Params} {c : Channel} {shadow direct : Reg} {m v : Word} {k : Prog}
    (hsr : R .sr) (hs : R shadow) (hd : R direct) (hk : k.Accesses R) :
    (Prog.read .sr fun sr =>
      if chBit sr c then Prog.setField p shadow m v k else Prog.setField p direct m v k).Accesses R := by
  refine ⟨hsr, fun sr => ?_⟩
  dsimp only
  split
  · exact .setField hs hk
  · exact .setField hd hk

/-- A step of a command whose writes leave the channels or replace channel `c` by one that `F` holds of. -/
theorem exec_frame_of_setter {i : Instr} {s t : State} {c : Channel} {R : Reg → Prop} (F : Chan → Prop)
    (hacc : ∀ p a0 a1, (progOf i p a0 a1).Accesses R) (hclk : ¬ R .clk) (hena : ¬ R .ena) (hdis : ¬ R .dis)
    (hF : F (s.chan c)) (hset : ∀ r v, R r → s.storeReg v r = s ∨ ∃ ch, F ch ∧ s.storeReg v r = s.setChan c ch)
    (h : exec i s = .next t) :
    t.clk = s.clk ∧ t.draws = s.draws ∧ (∀ d, d ≠ c → t.chan d = s.chan d) ∧ F (t.chan c) := by
  have hdraws : t.draws = s.draws := by
    rcases exec_inv h with ⟨-, rfl⟩ | ⟨q, ⟨l, -, rfl⟩, rfl⟩
    · rfl
    · exact ((hacc s.params l.arg0 l.arg1).resume l.replies).act_draws hena hdis s
  have hsame : t.chans = s.chans → (∀ d, d ≠ c → t.chan d = s.chan d) ∧ F (t.chan c) := fun hchans =>
    ⟨fun d _ => State.chan_congr hchans d, (State.chan_congr hchans c).symm ▸ hF⟩
  rcases exec_block (fun p a0 a1 => (hacc p a0 a1).only) h with ⟨htclk, hchans⟩ | ⟨r, v, hr, htclk, hchans⟩
  · exact ⟨htclk, hdraws, hsame hchans⟩
  · refine ⟨htclk.trans (s.storeReg_clk v r fun e => hclk (e ▸ hr)), hdraws, ?_⟩
    rcases hset r v hr with hs | ⟨ch, hch, hs⟩
    · exact hsame (by rw [hchans, hs])
    · rw [hs] at hchans
      refine ⟨fun d hd => (State.chan_congr hchans d).trans (s.setChan_chan_of_ne c d ch hd), ?_⟩
      rw [State.chan_congr hchans, State.setChan_chan_self]
      exact hch

/-- SETALG, SETPOL and SETPRE access CMRc alone. -/
theorem accesses_cmr {i : Instr} {c : Channel} (hi : i = .setalg c ∨ i = .setpol c ∨ i = .setpre c) (p : Params)
    (a0 a1 : Word) : (progOf i p a0 a1).Accesses (· = .cmr c) := by
  rcases hi with rfl | rfl | rfl <;> exact .setField rfl trivial

/-- A step of SETALG, SETPOL or SETPRE changes CMRc at most. -/
theorem exec_frame_of_cmr_setter {i : Instr} {s t : State} {c : Channel}
    (hi : i = .setalg c ∨ i = .setpol c ∨ i = .setpre c) (h : exec i s = .next t) :
    t.clk = s.clk ∧ t.fault = s.fault ∧ t.draws = s.draws ∧ (∀ d, d ≠ c → t.chan d = s.chan d) ∧
      t.chan c = { s.chan c with cmr := (t.chan c).cmr } := by
  have hfault : t.fault = s.fault :=
    exec_fault_of_indirect (fun p a0 a1 => (accesses_cmr hi p a0 a1).only) (by rintro r - rfl; rfl) h
  obtain ⟨hclk, hdraws, hother, hchan⟩ := exec_frame_of_setter (fun ch => ch = { s.chan c with cmr := ch.cmr })
    (accesses_cmr hi) nofun nofun nofun rfl (by rintro r v rfl; exact .inr ⟨_, rfl, rfl⟩) h
  exact ⟨hclk, hfault, hdraws, hother, hchan⟩

theorem accesses_setper (c : Channel) (p : Params) (a0 a1 : Word) :
    (progOf (.setper c) p a0 a1).Accesses fun r => r = .sr ∨ r = .cprdupd c ∨ r = .cprd c :=
  .bySr (.inl rfl) (.inr (.inl rfl)) (.inr (.inr rfl)) trivial

theorem accesses_setdty (c : Channel) (p : Params) (a0 a1 : Word) :
    (progOf (.setdty c) p a0 a1).Accesses fun r => r = .sr ∨ r = .cdtyupd c ∨ r = .cdty c :=
  .bySr (.inl rfl) (.inr (.inl rfl)) (.inr (.inr rfl)) trivial

/-- Settles O52: the first three access CMRc alone, SETPER and SETDTY besides SR one shadow and one direct register. -/
theorem channelSettersFrame : Obligations.ChannelSettersFrame := by
  intro c s t
  refine ⟨?cmr, fun h => ?setper, fun h => ?setdty⟩
  case cmr =>
    rintro (h | h | h)
    · exact exec_frame_of_cmr_setter (.inl rfl) h
    · exact exec_frame_of_cmr_setter (.inr (.inl rfl)) h
    · exact exec_frame_of_cmr_setter (.inr (.inr rfl)) h
  case setper =>
    refine exec_frame_of_setter
      (fun ch => ch = { s.chan c with cprd := ch.cprd, cprdupd := ch.cprdupd, pendPrd := ch.pendPrd })
      (accesses_setper c) (by simp) (by simp) (by simp) rfl ?_ h
    rintro r v (rfl | rfl | rfl)
    · exact .inl rfl
    · exact .inr ⟨_, rfl, rfl⟩
    · exact .inr ⟨_, rfl, rfl⟩
  case setdty =>
    refine exec_frame_of_setter
      (fun ch => ch = { s.chan c with cdty := ch.cdty, cdtyupd := ch.cdtyupd, pendDty := ch.pendDty })
      (accesses_setdty c) (by simp) (by simp) (by simp) rfl ?_ h
    rintro r v (rfl | rfl | rfl)
    · exact .inl rfl
    · exact .inr ⟨_, rfl, rfl⟩
    · exact .inr ⟨_, rfl, rfl⟩

end Sys2Proof.Machine
end

section
/-! PROOFS. INITC, SETFREQ and SETCLKF restore the enabled state (42_channel R164, 43_resolver R204 to R207): what remains
of such a command takes its channel from any point back to the enabled bit it had at the start (`Prog.Restores`). -/

namespace Sys2Proof.Machine

/-! ### The stages of a channel that is stopped and enabled again -/

/-- What is known of a channel's enabled and disable-request bits (10_state R37, R38). -/
inductive EnableStage
  /-- No request is pending and the enabled bit is known. -/
  | settled (en : Bool)
  /-- Behind a DIS write: the request is pending as long as the channel is enabled. -/
  | stopping

/-- The channels at a stage. -/
def EnableStage.Holds : EnableStage → Chan → Prop
  | .settled b, ch => ch.en = b ∧ ch.disreq = false
  | .stopping, ch => ch.disreq = ch.en

/-- The stage of channel `c` after a write of `v` to `r` (10_state R24, R25). -/
def EnableStage.afterWrite (st : EnableStage) (c : Channel) (r : Reg) (v : Word) : EnableStage :=
  if r = .ena ∧ chBit v c = true then .settled true
  else if r = .dis ∧ chBit v c = true then .stopping
  else st

/-- The stage of channel `c` when a wait on `m` has ended (42_channel R152). -/
def EnableStage.afterWait (st : EnableStage) (c : Channel) (m : Word) : EnableStage :=
  if chBit m c = true then .settled false else st

namespace EnableStage
variable {st : EnableStage} {s : State} {c : Channel} {ch : Chan}

/-- A boundary keeps every stage: it ends a request with the enabled bit (10_state R45). -/
theorem Holds.atBoundary (h : st.Holds ch) : st.Holds ch.atBoundary := by
  obtain ⟨-, -, -, -, hreq, -⟩ := ch.atBoundary_frame
  cases st with
  | settled b =>
    obtain ⟨hb, hnone⟩ := h
    exact ⟨by simp [hb, hnone], hreq⟩
  | stopping =>
    have hboth : ch.disreq = ch.en := h
    exact hreq.trans (by simp [hboth])

theorem Holds.boundary (h : st.Holds (s.chan c)) (d : Channel) : st.Holds ((s.boundary d).chan c) := by
  unfold State.boundary
  split
  · by_cases hc : c = d
    · subst hc
      rw [State.setChan_chan_self]
      exact h.atBoundary
    · rw [State.setChan_chan_of_ne _ _ _ _ hc]
      exact h
  · exact h

/-- A write of ENA enables the channel it names and, with no request pending, leaves none (10_state R24). -/
theorem holds_enableAct {b : Bool} (h : (settled b).Holds ch) (cancel : Bool) :
    (settled true).Holds (ch.enableAct true cancel) := by
  obtain ⟨hb, hreq⟩ := h
  refine ⟨by simp, ?_⟩
  cases b <;> simp [Chan.enableAct, hb, hreq]

/-- A write of DIS requests the disable of the channel it names if that is enabled (10_state R25). -/
theorem Holds.disableAct (h : st.Holds ch) : stopping.Holds (ch.disableAct true) := by
  cases hen : ch.en with
  | true => simp [Holds, Chan.disableAct, hen]
  | false =>
    have hreq : ch.disreq = false := by
      cases st with
      | settled b => exact h.2
      | stopping => exact Eq.trans h hen
    simp [Holds, Chan.disableAct, hen, hreq]

/-- A write of a register but ENA and DIS leaves every stage. -/
theorem Holds.storeReg_of_ne {r : Reg} (h : st.Holds (s.chan c)) (hena : r ≠ .ena) (hdis : r ≠ .dis) (v : Word) :
    st.Holds ((s.storeReg v r).chan c) := by
  have hen : ((s.storeReg v r).chan c).en = (s.chan c).en := by simp [State.storeReg_chan_en, hena]
  have hreq : ((s.storeReg v r).chan c).disreq = (s.chan c).disreq := by
    rw [State.storeReg_chan_eq]
    exact if_neg (not_or.2 ⟨hena, hdis⟩)
  cases st <;> simpa only [Holds, hen, hreq] using h

/-- A register write leads from stage to stage, but for a write of ENA on a pending request, whose outcome is a draw
(10_state R24). -/
theorem Holds.storeReg {r : Reg} (h : st.Holds (s.chan c)) (hena : r = .ena → st ≠ .stopping) (v : Word) :
    (st.afterWrite c r v).Holds ((s.storeReg v r).chan c) := by
  unfold afterWrite
  split_ifs with he hd
  · obtain ⟨rfl, hv⟩ := he
    rw [State.storeReg, State.writeEna_chan, hv]
    cases st with
    | settled b => exact holds_enableAct h _
    | stopping => exact absurd rfl (hena rfl)
  · obtain ⟨rfl, hv⟩ := hd
    rw [State.storeReg, State.writeDis_chan, hv]
    exact h.disableAct
  · by_cases hr : r = .ena ∨ r = .dis
    · have hv : chBit v c = false := by
        rcases hr with rfl | rfl
        · simpa using he
        · simpa using hd
      rw [(State.storeReg_chan_frame hr s v c).1 hv]
      exact h
    · obtain ⟨hne, hnd⟩ := not_or.1 hr
      exact h.storeReg_of_ne hne hnd v

/-- When a wait has ended, the channels it names are disabled, and no request is left. -/
theorem Holds.of_waitEnd {m : Word} (h : st.Holds (s.chan c)) (hm : s.srWord &&& m = 0) :
    (st.afterWait c m).Holds (s.chan c) := by
  unfold afterWait
  split
  · next hc =>
    have hen := (srWord_and_eq_zero_iff s m).1 hm c hc
    refine ⟨hen, ?_⟩
    cases st with
    | settled b => exact h.2
    | stopping => exact Eq.trans h hen
  · exact h

end EnableStage

/-! ### Pseudocode that restores the enabled bit -/

/-- What remains of a command takes channel `c` from a stage to its finish with the enabled bit `e` and no request, an SR
read telling the enabled bit of a settled channel. -/
def Prog.Restores (c : Channel) (e : Bool) : Prog → EnableStage → Prop
  | .finish _ _, st => st = .settled e
  | .read r k, st => ∀ v, (∀ b, r = .sr → st = .settled b → chBit v c = b) → (k v).Restores c e st
  | .write r v k, st => (r = .ena → st ≠ .stopping) ∧ k.Restores c e (st.afterWrite c r v)
  | .waitClear m k, st => k.Restores c e (st.afterWait c m)

section
variable {p : Params} {c : Channel} {b e : Bool} {st : EnableStage} {k : Prog}

/-- A write of a register that stores a word leaves the stage. -/
theorem EnableStage.afterWrite_of_stores {r : Reg} (h : r.stores = true) (st : EnableStage) (c : Channel) (v : Word) :
    st.afterWrite c r v = st := by
  cases r with
  | ena | dis | sr => cases h
  | _ => simp [EnableStage.afterWrite]

theorem Prog.Restores.setField {r : Reg} {m v : Word} (hr : r.stores = true) (hk : k.Restores c e st) :
    (Prog.setField p r m v k).Restores c e st := by
  refine fun old _ => ⟨fun h => ?_, by rwa [EnableStage.afterWrite_of_stores hr]⟩
  rw [h] at hr
  cases hr

theorem Prog.Restores.readSr {k : Word → Prog} (h : ∀ sr, chBit sr c = b → (k sr).Restores c e (.settled b)) :
    (Prog.read .sr k).Restores c e (.settled b) :=
  fun sr hsr => h sr (hsr b rfl rfl)

/-- The disable of an enabled channel, and none of a disabled one, leave it disabled. -/
theorem Prog.Restores.disableIf (hk : k.Restores c e (.settled false)) :
    (Prog.disableIf b c k).Restores c e (.settled b) := by
  cases b with
  | false => exact hk
  | true => exact ⟨nofun, by simpa [Prog.Restores, EnableStage.afterWrite, EnableStage.afterWait] using hk⟩

/-- The enable of a channel that was enabled, and none of one that was not, restore it. -/
theorem Prog.Restores.enableIf (hk : k.Restores c e (.settled b)) :
    (Prog.enableIf b c k).Restores c e (.settled false) := by
  cases b with
  | false => exact hk
  | true => exact ⟨nofun, by simpa [EnableStage.afterWrite] using hk⟩

theorem Prog.Restores.setPeriod {v : Word} (hk : k.Restores c e st) : (Prog.setPeriod p c v k).Restores c e st := by
  intro sr _
  dsimp only
  split <;> exact .setField rfl hk

theorem Prog.Restores.setDuty {v : Word} (hk : k.Restores c e st) : (Prog.setDuty p c v k).Restores c e st := by
  intro sr _
  dsimp only
  split <;> exact .setField rfl hk

end

section
variable {p : Params} {c : Channel} {b e : Bool} {f : Word} {k : Except ErrCode Word → Prog}

/-- resolve_local leaves the enabled bit as it finds it (43_resolver R204). -/
theorem Prog.Restores.resolveLocal (hk : ∀ r, (k r).Restores c e (.settled b)) :
    (Prog.resolveLocal p c f k).Restores c e (.settled b) := by
  unfold Prog.resolveLocal
  split
  · exact hk _
  · intro x _
    dsimp only
    split
    · exact hk _
    · split
      · exact hk _
      · refine .readSr fun sr hsr => ?_
        rw [hsr]
        exact .disableIf (.setPeriod (.setField rfl (.enableIf (hk _))))

/-- resolve_shared leaves the enabled bit as it finds it (43_resolver R206). -/
theorem Prog.Restores.resolveShared {ck : SharedClock} (hk : ∀ r, (k r).Restores c e (.settled b)) :
    (Prog.resolveShared p c f ck k).Restores c e (.settled b) := by
  unfold Prog.resolveShared
  split
  · exact hk _
  · split
    · exact hk _
    · refine .readSr fun sr hsr => ?_
      rw [hsr]
      exact .disableIf (.setField rfl (.setField rfl (.setField rfl (.enableIf (hk _)))))

theorem Prog.Restores.initcResolve {clk : Option SharedClock} (hk : ∀ r, (k r).Restores c e (.settled b)) :
    (Machine.initcResolve p c f clk k).Restores c e (.settled b) := by
  unfold Machine.initcResolve
  split
  · exact .resolveLocal hk
  · refine .resolveShared fun r => ?_
    cases r with
    | error err => exact fun _ _ => hk _
    | ok payload => exact hk _

end

theorem Prog.restores_finishWith (c : Channel) (e : Bool) (r : Except ErrCode Word) :
    (Prog.finishWith r).Restores c e (.settled e) := by
  cases r <;> exact rfl

/-- INITC behind its resolver path enables its channel again if it was enabled, on success and on error. -/
theorem restores_initcAfter (p : Params) (c : Channel) (al : Alignment) (pol : Polarity) (duty : Word) (e : Bool)
    (r : Except ErrCode Word) : (initcAfter p c al pol duty e r).Restores c e (.settled false) := by
  cases r with
  | error err => exact .enableIf rfl
  | ok payload => exact .setField rfl (.setField rfl (.setDuty (.enableIf rfl)))

theorem restores_initcBody (p : Params) (c : Channel) (al : Alignment) (pol : Polarity) (f duty : Word)
    (clk : Option SharedClock) (e : Bool) : (initcBody p c al pol f duty clk).Restores c e (.settled e) := by
  rw [initcBody_eq]
  refine .readSr fun sr hsr => ?_
  rw [hsr]
  exact .disableIf (.initcResolve (restores_initcAfter p c al pol duty e))

/-- INITC, SETFREQ and SETCLKF restore the enabled bit of their channel. -/
theorem restores_progOf {i : Instr} {c : Channel}
    (hi : i = .setfreq c ∨ (∃ ck, i = .setclkf c ck) ∨ ∃ al pol u ck, i = .initc c al pol u ck) (p : Params)
    (a0 a1 : Word) (e : Bool) : (progOf i p a0 a1).Restores c e (.settled e) := by
  rcases hi with rfl | ⟨ck, rfl⟩ | ⟨al, pol, u, ck, rfl⟩
  · exact .resolveLocal (Prog.restores_finishWith c e)
  · dsimp only [progOf, progSetclkf]
    split
    · rfl
    · exact .resolveShared (Prog.restores_finishWith c e)
  · dsimp only [progOf, progInitc]
    split
    · rfl
    · split
      · rfl
      · exact restores_initcBody p c al pol a0 (argHalf a1) _ e

/-! ### Every step of a run keeps what remains restoring -/

/-- What every move of a schedule keeps holds at every point of the run. -/
theorem runAt_induction {σ : Schedule} {P : State → Prop} {s : State} (h : P s)
    (hstep : ∀ n u t, P u → stepMove (σ n) u = .next t → P t) (n : Nat) : P (runAt σ s n) := by
  induction n with
  | zero => exact h
  | succ n ih =>
    unfold runAt
    split
    · next hs => exact hstep n _ _ ih hs
    · exact ih
    · exact ih

/-- The accesses of a passive host are passive (60_exceptions R313). -/
theorem HostPassive.passive {p : Params} {σ : Schedule} (h : HostPassive p σ) {n : Nat} {a : HostAccess}
    (ha : σ n = .host a) : a.Passive p := by
  rcases h n with e | ⟨c, e⟩ | e | ⟨b, e, hb⟩ <;> rw [e] at ha <;> cases ha
  exact hb

/-- The running command of `s`, if there is one, is `i` and will leave channel `c` with the enabled bit `e` and no request;
without one the channel is so. -/
structure State.RunsRestoring (p : Params) (i : Instr) (c : Channel) (e : Bool) (s : State) : Prop where
  params : s.params = p
  idle : s.phase = .idle → (EnableStage.settled e).Holds (s.chan c)
  running : ∀ l, s.phase = .running l → decode l.cmd = .ok i ∧
    ∃ st : EnableStage, st.Holds (s.chan c) ∧ ((progOf i p l.arg0 l.arg1).resume l.replies).Restores c e st

namespace State.RunsRestoring
variable {p : Params} {i : Instr} {c : Channel} {e : Bool} {s t : State}

/-- Kept by whatever leaves the parameters and the phase, and the stage of the channel. -/
theorem of_frame (h : s.RunsRestoring p i c e) (hparams : t.params = s.params) (hphase : t.phase = s.phase)
    (hchan : ∀ st : EnableStage, st.Holds (s.chan c) → st.Holds (t.chan c)) : t.RunsRestoring p i c e where
  params := hparams.trans h.params
  idle ht := hchan _ (h.idle (hphase ▸ ht))
  running l hl := by
    obtain ⟨hd, st, hst, hrest⟩ := h.running l (hphase ▸ hl)
    exact ⟨hd, st, hchan st hst, hrest⟩

/-- Kept by an access that is performed, when what remains behind it restores the channel from its stage. -/
theorem reply {l : Latch} {v : Word} {st : EnableStage} (h : s.RunsRestoring p i c e) (hl : s.phase = .running l)
    (hparams : t.params = s.params) (hphase : t.phase = s.phase) (hst : st.Holds (t.chan c))
    (hrest : (((progOf i p l.arg0 l.arg1).resume l.replies).after v).Restores c e st) :
    (t.reply v).RunsRestoring p i c e := by
  have hrun := State.reply_phase_of_running (hphase.trans hl) v
  refine ⟨hparams.trans h.params, fun hidle => ?_, fun l' hl' => ?_⟩
  · rw [hrun] at hidle
    cases hidle
  · rw [hrun] at hl'
    cases hl'
    exact ⟨(h.running l hl).1, st, hst, by rwa [Prog.resume_append]⟩

/-- The access a restoring command stands at leaves it restoring. -/
theorem act {l : Latch} {q : Prog} (h : s.RunsRestoring p i c e) (hl : s.phase = .running l)
    (hq : (progOf i p l.arg0 l.arg1).resume l.replies = q) : (q.act s).RunsRestoring p i c e := by
  obtain ⟨-, st, hst, hrest⟩ := h.running l hl
  rw [hq] at hrest
  cases q with
  | finish err r =>
    obtain rfl : st = .settled e := hrest
    exact ⟨h.params, fun _ => hst, nofun⟩
  | read r k =>
    obtain ⟨-, hchans, -, -, -, -, -, hphase, -, hparams, -, -⟩ := s.afterRead_frame r
    refine h.reply hl hparams hphase (by rwa [State.chan_congr hchans]) ?_
    rw [hq]
    refine hrest _ fun b hr hb => ?_
    subst hr hb
    exact (chBit_srWord s c).trans hst.1
  | write r v k =>
    obtain ⟨hena, hk⟩ := hrest
    dsimp only [Prog.act]
    cases hf : s.directFault r with
    | some f =>
      rw [State.writeStep_of_fault hf]
      exact h.of_frame rfl rfl fun _ => id
    | none =>
      obtain ⟨-, -, -, -, -, hphase, -, hparams, -, -⟩ := s.storeReg_frame v r
      rw [State.writeStep_of_ok hf]
      refine h.reply hl hparams hphase (hst.storeReg hena v) ?_
      rw [hq]
      exact hk
  | waitClear m k =>
    dsimp only [Prog.act]
    unfold State.waitStep
    split
    · next hm =>
      refine h.reply hl rfl rfl (hst.of_waitEnd hm) ?_
      rw [hq]
      exact hrest
    · exact h

theorem of_sequencerStep (h : s.RunsRestoring p i c e) (hs : sequencerStep s = .next t) : t.RunsRestoring p i c e := by
  cases hp : s.phase with
  | idle =>
    rw [sequencerStep, hp] at hs
    cases hs
    exact h
  | running l =>
    rw [sequencerStep_of_decode_ok hp (h.running l hp).1, exec_of_stands (stands_of_running i hp)] at hs
    cases hs
    exact h.act hp (by rw [h.params])

/-- Every move with a passive host keeps it. -/
theorem of_stepMove {m : Move} (h : s.RunsRestoring p i c e) (hpassive : ∀ a, m = .host a → a.Passive p)
    (hs : stepMove m s = .next t) : t.RunsRestoring p i c e := by
  rcases stepMove_cases hs with ⟨a, rfl, rfl⟩ | ⟨d, -, rfl⟩ | ⟨-, rfl⟩ | hseq
  · obtain ⟨x, hx⟩ := State.hostAccess_of_passive (s := s) (h.params ▸ hpassive a rfl)
    rw [hx]
    exact h.of_frame rfl rfl fun _ => id
  · have hframe := s.boundary_frame d
    exact h.of_frame (by rw [hframe]) (by rw [hframe]) fun st hst => hst.boundary d
  · exact h.of_frame rfl rfl fun _ => id
  · exact h.of_sequencerStep hseq

end State.RunsRestoring

/-- Settles O59: at every point of the run what remains of the command restores the enabled bit, and at its end nothing
remains. -/
theorem resolverCommandsRestoreEnabledState : Obligations.ResolverCommandsRestoreEnabledState := by
  intro σ s l i c _ hl hreplies hi hcmd hreq hσ n hidle
  have hstart : s.RunsRestoring s.params i c (s.chan c).en :=
    { params := rfl
      idle := fun h => by rw [hl] at h; cases h
      running := fun l' hl' => by
        obtain rfl : l = l' := Phase.running.inj (hl.symm.trans hl')
        rw [hreplies]
        exact ⟨hi, .settled _, ⟨rfl, hreq⟩, restores_progOf hcmd s.params l.arg0 l.arg1 _⟩ }
  have hrun : (runAt σ s n).RunsRestoring s.params i c (s.chan c).en :=
    runAt_induction (σ := σ) hstart (fun k _ _ hu => hu.of_stepMove fun _ ha => hσ.passive (n := k) ha) n
  exact (hrun.idle hidle).1

end Sys2Proof.Machine
end

section
/-! PROOFS. The laws of the two searches (43_resolver R201, R202, R209): each divides F by a product that doubles along
the ladder. -/

namespace Sys2Proof.Machine

/-! ### What a search finds (43_resolver R201, R202) -/

/-- A search of the ladder finds exactly the first index in range, and its candidate. -/
theorem ladderSearch_eq_some_iff {candidate : Nat → Nat} {max i x : Nat} :
    (((List.range Config.ladderSize).find? fun j => candidate j ≤ max).map fun j => (j, candidate j)) = some (i, x) ↔
      FirstInRange candidate max i ∧ x = candidate i := by
  have hfind : ((List.range Config.ladderSize).find? fun j => candidate j ≤ max) = some i ↔
      FirstInRange candidate max i := by
    simp [List.find?_range_eq_some, FirstInRange, Nat.lt_succ_iff, and_left_comm]
  rw [← hfind]
  simp only [Option.map_eq_some_iff, Prod.mk.injEq]
  exact ⟨fun ⟨_, h, hi, hx⟩ => hi ▸ ⟨h, hx.symm⟩, fun ⟨h, hx⟩ => ⟨i, h, rfl, hx.symm⟩⟩

/-- A search of the ladder is exhausted exactly when no index is in range. -/
theorem ladderSearch_eq_none_iff {candidate : Nat → Nat} {max : Nat} :
    (((List.range Config.ladderSize).find? fun j => candidate j ≤ max).map fun j => (j, candidate j)) = none ↔
      ∀ i, i ≤ 10 → max < candidate i := by
  simp [Nat.lt_succ_iff]

theorem localSearch_eq_some_iff {F f k i P : Nat} :
    localSearch F f k = some (i, P) ↔
      FirstInRange (candidatePeriod F f k) Config.periodMax i ∧ P = candidatePeriod F f k i :=
  ladderSearch_eq_some_iff

theorem localSearch_eq_none_iff {F f k : Nat} :
    localSearch F f k = none ↔ ∀ i, i ≤ 10 → Config.periodMax < candidatePeriod F f k i :=
  ladderSearch_eq_none_iff

theorem sharedSearch_eq_some_iff {F f i d : Nat} :
    sharedSearch F f = some (i, d) ↔
      FirstInRange (candidateDivisor F f) Config.divisorMax i ∧ d = candidateDivisor F f i :=
  ladderSearch_eq_some_iff

theorem sharedSearch_eq_none_iff {F f : Nat} :
    sharedSearch F f = none ↔ ∀ i, i ≤ 10 → Config.divisorMax < candidateDivisor F f i :=
  ladderSearch_eq_none_iff

/-! ### Quotients along the ladder (43_resolver R209) -/

/-- The shape of both candidates: F divided by `m` times the ladder's entry. -/
def ladderQuotient (F m i : Nat) : Nat := F / (m * Config.ladder i)

theorem candidatePeriod_eq_ladderQuotient (F f k : Nat) : candidatePeriod F f k = ladderQuotient F (f * k) := by
  funext i
  rw [candidatePeriod, ladderQuotient, Nat.mul_right_comm]

theorem candidateDivisor_eq_ladderQuotient (F f : Nat) : candidateDivisor F f = ladderQuotient F f := by
  funext i
  rw [candidateDivisor, ladderQuotient, Nat.div_div_eq_div_mul, Nat.mul_comm]

/-- Nesting (R209 (a)). -/
theorem ladderQuotient_succ (F m i : Nat) : ladderQuotient F m (i + 1) = ladderQuotient F m i / 2 := by
  rw [ladderQuotient, ladderQuotient, Nat.div_div_eq_div_mul, Config.ladder, pow_succ, Nat.mul_assoc]

theorem ladderQuotient_zero (F m : Nat) : ladderQuotient F m 0 = F / m := by
  rw [ladderQuotient, Config.ladder, pow_zero, Nat.mul_one]

theorem ladderQuotient_antitone (F m : Nat) : Antitone (ladderQuotient F m) :=
  antitone_nat_of_succ_le fun i => by
    rw [ladderQuotient_succ]
    exact Nat.div_le_self _ _

/-- No index is in range exactly when the last is not (R209 (c), (d)). -/
theorem ladderQuotient_exhausted_iff {F m : Nat} (hm : 0 < m) (max : Nat) :
    (∀ i, i ≤ 10 → max < ladderQuotient F m i) ↔ m * (2 ^ 10 * (max + 1)) ≤ F := by
  rw [← Nat.mul_assoc, Nat.mul_comm, ← Nat.le_div_iff_mul_le (by positivity)]
  exact ⟨fun h => h 10 le_rfl, fun h i hi => lt_of_lt_of_le h (ladderQuotient_antitone F m hi)⟩

namespace FirstInRange
variable {F m max i : Nat}

/-- Behind index 0 the value found is at least half the bound: its predecessor was out of range (R209 (b), (d)). -/
theorem half_le (h : FirstInRange (ladderQuotient F m) max i) (hi : 1 ≤ i) :
    (max + 1) / 2 ≤ ladderQuotient F m i := by
  obtain ⟨j, rfl⟩ := Nat.exists_eq_add_of_le' hi
  obtain ⟨-, -, hbefore⟩ := h
  rw [ladderQuotient_succ]
  exact Nat.div_le_div_right (hbefore j (Nat.lt_succ_self j))

/-- A value 0 is found at index 0 alone (R209 (b)). -/
theorem index_eq_zero (h : FirstInRange (ladderQuotient F m) max i) (hmax : 1 ≤ max)
    (h0 : ladderQuotient F m i = 0) : i = 0 := by
  by_contra hi
  have := h.half_le (Nat.one_le_iff_ne_zero.2 hi)
  omega

/-- The value found is 0 exactly when the one at index 0 is (R209 (b)). -/
theorem eq_zero_iff (h : FirstInRange (ladderQuotient F m) max i) (hmax : 1 ≤ max) (hm : 0 < m) :
    ladderQuotient F m i = 0 ↔ F < m := by
  rw [← Nat.div_eq_zero_iff_lt hm, ← ladderQuotient_zero]
  refine ⟨fun h0 => h.index_eq_zero hmax h0 ▸ h0, fun h0 => ?_⟩
  exact Nat.le_zero.1 (h0 ▸ ladderQuotient_antitone F m (Nat.zero_le i))

end FirstInRange

/-- A quotient that is not 0 is more than half of the exact one (R209 (e)). -/
theorem ladderQuotient_bounds {F m i : Nat} (hm : 0 < m) (h : 1 ≤ ladderQuotient F m i) :
    m * (2 ^ i * ladderQuotient F m i) ≤ F ∧ F < 2 * m * (2 ^ i * ladderQuotient F m i) := by
  have hle : m * 2 ^ i * ladderQuotient F m i ≤ F := Nat.mul_div_le _ _
  have hlt : F < m * 2 ^ i * (ladderQuotient F m i + 1) := Nat.lt_mul_div_succ F (by positivity)
  have hone : m * 2 ^ i * 1 ≤ m * 2 ^ i * ladderQuotient F m i := Nat.mul_le_mul_left _ h
  constructor <;> linarith

/-! ### The two searches -/

/-- The Center search sees at an index what the Left search sees one index higher (R209 (f)). -/
theorem candidatePeriod_center (F f i : Nat) : candidatePeriod F f 2 i = candidatePeriod F f 1 (i + 1) := by
  rw [candidatePeriod, candidatePeriod, Config.ladder, Config.ladder, pow_succ, Nat.mul_one, Nat.mul_assoc]

/-- The Center search finds the Left search's period one index lower, or half of it at index 0 (R209 (f)). -/
theorem localSearch_center {F f i P : Nat} (h : localSearch F f 1 = some (i, P)) :
    localSearch F f 2 = if i = 0 then some (0, P / 2) else some (i - 1, P) := by
  obtain ⟨⟨hi, hin, hbefore⟩, rfl⟩ := localSearch_eq_some_iff.1 h
  cases i with
  | zero =>
    have hhalf : candidatePeriod F f 2 0 = candidatePeriod F f 1 0 / 2 := by
      rw [candidatePeriod_center, candidatePeriod_eq_ladderQuotient, ladderQuotient_succ]
    refine localSearch_eq_some_iff.2 ⟨⟨Nat.zero_le _, ?_, nofun⟩, hhalf.symm⟩
    exact hhalf ▸ (Nat.div_le_self _ _).trans hin
  | succ j =>
    rw [← candidatePeriod_center] at hin ⊢
    refine localSearch_eq_some_iff.2 ⟨⟨Nat.le_of_succ_le hi, hin, fun n hn => ?_⟩, rfl⟩
    rw [candidatePeriod_center]
    exact hbefore (n + 1) (Nat.succ_lt_succ hn)

/-- Settles O48: the laws of quotients along the ladder, at `m = f * k`. -/
theorem localSearchLaws : Obligations.LocalSearchLaws := by
  intro F f k hf _ hk
  have hm : 0 < f * k := Nat.mul_pos hf (by omega)
  refine ⟨fun i P => localSearch_eq_some_iff, ?exhausted, ?found, fun i P => localSearch_center⟩
  case exhausted =>
    rw [localSearch_eq_none_iff, candidatePeriod_eq_ladderQuotient]
    exact ladderQuotient_exhausted_iff hm _
  case found =>
    intro i P h
    obtain ⟨hfirst, rfl⟩ := localSearch_eq_some_iff.1 h
    rw [candidatePeriod_eq_ladderQuotient] at hfirst ⊢
    refine ⟨hfirst.eq_zero_iff (by decide) hm, hfirst.index_eq_zero (by decide), hfirst.half_le, fun hP => ?_⟩
    have hbounds := ladderQuotient_bounds hm hP
    constructor <;> linarith

/-- Settles O49: the laws of quotients along the ladder, at `m = f`; the divisor at index 0 is not 0. -/
theorem sharedSearchLaws : Obligations.SharedSearchLaws := by
  intro F f hf hle
  refine ⟨fun i d => sharedSearch_eq_some_iff, ?exhausted, ?found⟩
  case exhausted =>
    rw [sharedSearch_eq_none_iff, candidateDivisor_eq_ladderQuotient]
    exact ladderQuotient_exhausted_iff hf _
  case found =>
    intro i d h
    obtain ⟨hfirst, rfl⟩ := sharedSearch_eq_some_iff.1 h
    rw [candidateDivisor_eq_ladderQuotient] at hfirst ⊢
    have hpos : 1 ≤ ladderQuotient F f i :=
      Nat.one_le_iff_ne_zero.2 fun h0 => absurd ((hfirst.eq_zero_iff (by decide) hf).1 h0) (by omega)
    exact ⟨hpos, hfirst.2.1, hfirst.half_le, ladderQuotient_bounds hf hpos⟩

end Sys2Proof.Machine
end

section
/-! PROOFS. SETFREQ and SETCLKF to their finish (43_resolver R204 to R207, R210), and the errors of the resolver (R203,
42_channel R164, 60_exceptions R302). -/

namespace Sys2Proof.Machine

/-! ### Writes to a stopped channel (43_resolver R204, R206) -/

/-- `writes` with channel `c` disabled: behind an SR read and the disable of a channel it shows enabled, which is
enabled again. -/
def Prog.whileStopped (c : Channel) (writes : Prog → Prog) (k : Prog) : Prog :=
  .read .sr fun sr => .disableIf (chBit sr c) c (writes (.enableIf (chBit sr c) c k))

section
variable {i : Instr} {s : State} {c : Channel} {w a0 a1 : Word} {writes : Prog → Prog} {k : Prog} {vs : List Word}

/-- An enabled channel's disable is requested behind the SR read. -/
theorem runs_whileStopped_request (hat : s.At w a0 a1 vs) (hst : Stands i s (.whileStopped c writes k))
    (hen : (s.chan c).en = true) :
    Runs i 2 s (s.disableRequested c w a0 a1 (vs ++ [s.srWord, channelBit c])) := by
  refine ⟨_, exec_of_stands hst, _, ?_, rfl⟩
  have hread := hst.read
  rw [show chBit (s.regValue .sr) c = true from (chBit_srWord s c).trans hen] at hread
  have hat' : (s.readStep .sr).At w a0 a1 (vs ++ [s.srWord]) := State.reply_phase_of_running hat s.srWord
  rw [List.append_cons]
  exact exec_of_stands_disable hat' hread hen

/-- Behind the DIS write of a channel SR showed enabled the command stands at the wait. -/
theorem stands_whileStopped_wait {sr v : Word} (hat : s.At w a0 a1 (vs ++ [sr, v])) (hsr : sr.getLsbD c.val = true)
    (hp : (progOf i s.params a0 a1).resume vs = .whileStopped c writes k) :
    Stands i s (.waitClear (channelBit c) (writes (.enable (channelBit c) k))) := by
  have hbit : chBit sr c = true := hsr
  have hrest : (Prog.whileStopped c writes k).resume [sr, v] =
      .waitClear (channelBit c) (writes (.enable (channelBit c) k)) := by
    simp only [Prog.whileStopped, Prog.resume, List.foldl, Prog.after, hbit, Prog.disableIf, Prog.enableIf, if_true,
      Prog.disable]
  rw [← hrest, ← hp, ← Prog.resume_append_list]
  exact stands_of_at hat

/-- At the wait the command holds while its channel is enabled; then it makes its writes, which leave CLK `cw` and the
channel `ch`, and enables the channel again. -/
theorem whileStopped_wait_completes {m : Nat} {ch : Chan} {cw sr v r : Word} (hat : s.At w a0 a1 (vs ++ [sr, v]))
    (hsr : sr.getLsbD c.val = true)
    (hp : (progOf i s.params a0 a1).resume vs = .whileStopped c writes (.finish .ok r))
    (hwrites : (s.chan c).en = false →
      ∀ n k, Prog.run (n + m) (writes k) s = Prog.run n k ((s.setClk cw).setChan c ch))
    (hch : ch.en = (s.chan c).en) :
    ((s.chan c).en = true → exec i s = .next s) ∧
    ((s.chan c).en = false →
      Runs i (m + 3) s (((s.setClk cw).setChan c { ch with en := true }).tick.finish .ok r)) := by
  have hst := stands_whileStopped_wait hat hsr hp
  refine ⟨exec_of_stands_wait hst, fun hen => runs_of_run hst ?_⟩
  have hwait : s.srWord &&& channelBit c = 0 := (srWord_and_channelBit_eq_zero_iff s c).2 hen
  rw [Prog.run, if_pos hwait, Nat.add_comm m 2, hwrites hen]
  refine (Prog.run_enable 1 _ c _ (by simpa using hch.trans hen)).trans ?_
  rw [State.setChan_chan_self, State.setChan_setChan]
  rfl

end

/-! ### The writes of the two resolver paths -/

/-- The writes of resolve_local: period, then ladder index (R204). -/
def Prog.localWrites (p : Params) (c : Channel) (i P : Nat) (k : Prog) : Prog :=
  .setPeriod p c (BitVec.ofNat 32 P) (.setField p (.cmr c) cpreMask (BitVec.ofNat 32 i) k)

/-- The writes of resolve_shared: clock, then the selector that names it (R206). -/
def Prog.sharedWrites (p : Params) (c : Channel) (clk : SharedClock) (i d : Nat) (k : Prog) : Prog :=
  .setClock p clk (BitVec.ofNat 32 i) (BitVec.ofNat 32 d) (.setField p (.cmr c) cpreMask clk.selector k)

section
variable {p : Params} {c : Channel} {s : State} {f : Word} {i : Nat}

/-- Past the frequency check resolve_local reads the alignment. -/
theorem Prog.resolveLocal_eq_read (k : Except ErrCode Word → Prog) (hf : badFrequency p f = false) :
    Prog.resolveLocal p c f k = .read (.cmr c) (Prog.resolveLocal p c f k).after := by
  rw [Prog.resolveLocal, if_neg (by simp [hf])]
  rfl

theorem Prog.resolveLocal_after_of_found {P : Nat} {cmr : Word} (k : Except ErrCode Word → Prog)
    (hf : badFrequency p f = false)
    (hsearch : localSearch (Config.freq p) f.toNat (alignFactor (extractField p.shiftRule cmr calgMask)) = some (i, P))
    (hP : P ≠ 0) :
    (Prog.resolveLocal p c f k).after cmr = .whileStopped c (.localWrites p c i P) (k (.ok (localPayload i P))) := by
  rw [Prog.resolveLocal, if_neg (by simp [hf])]
  simp only [Prog.getField, Prog.after, hsearch, if_neg hP]
  rfl

theorem Prog.resolveShared_of_found {clk : SharedClock} {d : Nat} (k : Except ErrCode Word → Prog)
    (hf : badFrequency p f = false) (hsearch : sharedSearch (Config.freq p) f.toNat = some (i, d)) :
    Prog.resolveShared p c f clk k = .whileStopped c (.sharedWrites p c clk i d) (k (.ok (sharedPayload i d))) := by
  rw [Prog.resolveShared, if_neg (by simp [hf]), hsearch]
  rfl

theorem Prog.run_localWrites (n P : Nat) (k : Prog) (hen : (s.chan c).en = false) :
    Prog.run (n + 5) (Prog.localWrites p c i P k) s =
      Prog.run n k (s.setChan c { s.chan c with
        cprd := putField (s.chan c).cprd 0xFFFF (BitVec.ofNat 32 P) (p.shiftRule.pick 0 15)
        cmr := insertField p.shiftRule (s.chan c).cmr cpreMask (BitVec.ofNat 32 i) }) := by
  rw [Prog.localWrites, Prog.run_setPeriod_of_disabled (n + 2) _ _ _ hen, Prog.run_setField_cmr]
  simp only [State.setChan_chan_self, State.setChan_setChan]

theorem Prog.run_sharedWrites (n d : Nat) (clk : SharedClock) (k : Prog) :
    Prog.run (n + 6) (Prog.sharedWrites p c clk i d k) s =
      Prog.run n k ((s.setClk (clk.setWord p.shiftRule s.clk (BitVec.ofNat 32 i) (BitVec.ofNat 32 d))).setChan c
        { s.chan c with cmr := insertField p.shiftRule (s.chan c).cmr cpreMask clk.selector }) := by
  rw [Prog.sharedWrites, Prog.run_setClock (n + 2), Prog.run_setField_cmr]
  rfl

end

/-! ### SETFREQ and SETCLKF (43_resolver R205, R207) -/

/-- The selector field of CMRc under either shift rule. -/
theorem insertField_cpre (rule : ShiftRule) (old v : Word) :
    insertField rule old cpreMask v = putField old 0xF v (rule.pick 0 3) :=
  insertField_eq_putField (shiftOf_cpre rule) old v

/-- Settles O45: behind the alignment read SETFREQ makes the writes of resolve_local with its channel stopped. -/
theorem setfreqCompletes : Obligations.SetfreqCompletes := by
  intro s w f a1 cmr c k i P hpos hle hk hfirst hPdef hP
  rw [← alignFactor_extractField s.params.shiftRule] at hk
  subst hk
  have hf := badFrequency_eq_false hpos hle
  have hsearch := localSearch_eq_some_iff.2 ⟨hfirst, hPdef⟩
  have hpayload : localPayload i P = BitVec.ofNat 32 (i * 65536 + P) := localPayload_eq i (hPdef ▸ hfirst.2.1)
  have hprog : (progOf (.setfreq c) s.params f a1).resume [cmr] =
      .whileStopped c (.localWrites s.params c i P) (.finish .ok (localPayload i P)) :=
    Prog.resolveLocal_after_of_found .finishWith hf hsearch hP
  rw [← hpayload, ← insertField_cpre]
  refine ⟨fun hat hcmr hen => ?start, fun hat hcmr hen => ?request, fun sr v hat hsr => ?behindDis⟩
  case start =>
    subst hcmr
    exact runs_of_run (stands_at_start hat) (Prog.run_resolveLocal 1 _ hf hsearch hP hen)
  case request =>
    subst hcmr
    have hstart : Stands (.setfreq c) s (.read (.cmr c) (Prog.resolveLocal s.params c f .finishWith).after) :=
      Prog.resolveLocal_eq_read .finishWith hf ▸ stands_at_start hat
    have hread : Stands (.setfreq c) (s.readStep (.cmr c))
        ((progOf (.setfreq c) s.params f a1).resume [(s.chan c).cmr]) := hstart.read
    rw [hprog] at hread
    have hat' : (s.readStep (.cmr c)).At w f a1 [(s.chan c).cmr] :=
      State.reply_phase_of_running hat (s.chan c).cmr
    exact ⟨_, exec_of_stands hstart, runs_whileStopped_request hat' hread hen⟩
  case behindDis =>
    exact whileStopped_wait_completes (vs := [cmr]) (cw := s.clk) hat hsr hprog
      (fun hen n k => Prog.run_localWrites n P k hen) rfl

/-- Settles O46: SETCLKF makes the writes of resolve_shared with its channel stopped. -/
theorem setclkfCompletes : Obligations.SetclkfCompletes := by
  intro s w f a1 c ck i d hckle hpos hle hfirst hd
  obtain ⟨clk, hck, hsel, hword⟩ := exists_sharedClock hckle
  have hf := badFrequency_eq_false hpos hle
  have hsearch := sharedSearch_eq_some_iff.2 ⟨hfirst, hd⟩
  have hpayload : sharedPayload i d = BitVec.ofNat 32 (i * 256 + d) := sharedPayload_eq i (hd ▸ hfirst.2.1)
  have hshared : progOf (.setclkf c ck) s.params f a1 = .resolveShared s.params c f clk .finishWith := by
    rw [progOf, progSetclkf, hck]
  have hprog : progOf (.setclkf c ck) s.params f a1 =
      .whileStopped c (.sharedWrites s.params c clk i d) (.finish .ok (sharedPayload i d)) :=
    hshared.trans (Prog.resolveShared_of_found .finishWith hf hsearch)
  rw [← hpayload, ← insertField_cpre, ← hword, ← hsel]
  refine ⟨fun hat hen => ?start, fun hat hen => ?request, fun sr v hat hsr => ?behindDis⟩
  case start =>
    exact runs_of_run (stands_at_start hat) ((congrArg (Prog.run 8 · s) hshared).trans
      (Prog.run_resolveShared 1 _ hf hsearch hen))
  case request => exact runs_whileStopped_request hat (hprog ▸ stands_at_start hat) hen
  case behindDis =>
    exact whileStopped_wait_completes (i := .setclkf c ck) (vs := []) hat hsr hprog
      (fun _ n k => Prog.run_sharedWrites n d clk k) rfl

/-! ### The errors of the resolver (43_resolver R203, R204, R206) -/

theorem badFrequency_eq_true {p : Params} {f : Word} (h : f.toNat = 0 ∨ p.sysClock.toNat < f.toNat) :
    badFrequency p f = true := by
  rw [badFrequency, Bool.or_eq_true, beq_iff_eq, decide_eq_true_eq]
  exact h.imp_left BitVec.eq_of_toNat_eq

/-- A bad frequency ends the three commands before any access (R203). -/
theorem progOf_of_badFrequency {p : Params} {f : Word} {ck : BitVec 2} {clk : SharedClock}
    (hf : badFrequency p f = true) (hck : sharedClock ck = some clk) (c : Channel) (al : Alignment) (pol : Polarity)
    (a1 : Word) :
    progOf (.setfreq c) p f a1 = .finish .freq 0 ∧ progOf (.setclkf c ck) p f a1 = .finish .freq 0 ∧
      progOf (.initc c al pol false 0) p f a1 = .finish .freq 0 ∧
      progOf (.initc c al pol true ck) p f a1 = .finish .freq 0 := by
  simp [progOf, progSetfreq, progSetclkf, progInitc, Prog.resolveLocal, Prog.resolveShared, Prog.finishWith, hf, hck]

/-- What the local search answers when resolve_local ends with the error `e` behind its alignment read (R204). -/
def LocalSearchFails (F f k : Nat) (e : ErrCode) : Prop :=
  e = .exhausted ∧ localSearch F f k = none ∨ e = .zeroPeriod ∧ localSearch F f k = some (0, 0)

/-- A candidate of 0 at index 0 is in range, and found there. -/
theorem localSearch_eq_zero {F f k : Nat} (h : F < f * k) : localSearch F f k = some (0, 0) := by
  have h0 : candidatePeriod F f k 0 = 0 := by
    rw [candidatePeriod_eq_ladderQuotient, ladderQuotient_zero, Nat.div_eq_of_lt h]
  exact localSearch_eq_some_iff.2 ⟨⟨Nat.zero_le _, h0.trans_le (Nat.zero_le _), nofun⟩, h0.symm⟩

section
variable {p : Params} {c : Channel} {s : State} {f : Word} {e : ErrCode} (n : Nat) (k : Except ErrCode Word → Prog)

/-- resolve_local fails behind its alignment read alone (R204). -/
theorem Prog.run_resolveLocal_of_fails (hf : badFrequency p f = false)
    (he : LocalSearchFails (Config.freq p) f.toNat (alignFactor (extractField p.shiftRule (s.chan c).cmr calgMask)) e) :
    Prog.run (n + 1) (Prog.resolveLocal p c f k) s = Prog.run n (k (.error e)) s := by
  rw [Prog.resolveLocal, if_neg (by simp [hf]), Prog.run_getField]
  simp only [State.regValue, State.afterRead]
  rcases he with ⟨rfl, hnone⟩ | ⟨rfl, hzero⟩
  · rw [hnone]
  · rw [hzero]
    rfl

theorem Prog.resolveShared_of_exhausted {clk : SharedClock} (hf : badFrequency p f = false)
    (hnone : sharedSearch (Config.freq p) f.toNat = none) :
    Prog.resolveShared p c f clk k = k (.error .exhausted) := by
  rw [Prog.resolveShared, if_neg (by simp [hf]), hnone]

/-- INITC's shared path fails behind the alignment read that R302 gives it. -/
theorem Prog.run_initcResolve_shared_of_exhausted {clk : SharedClock} (hf : badFrequency p f = false)
    (hnone : sharedSearch (Config.freq p) f.toNat = none) :
    Prog.run (n + 1) (initcResolve p c f (some clk) k) s = Prog.run n (k (.error .exhausted)) s := by
  unfold initcResolve
  exact congrArg (Prog.run (n + 1) · s) (Prog.resolveShared_of_exhausted _ hf hnone)

end

/-- INITC of a disabled channel whose resolver path fails with its one access, from its start or behind the wait for a
channel SR showed enabled, which it then enables again (42_channel R164). -/
theorem initc_fails {i : Instr} {s : State} {c : Channel} {al : Alignment} {pol : Polarity} {w f a1 : Word}
    {clk : Option SharedClock} {e : ErrCode}
    (hi : progOf i s.params f a1 = initcBody s.params c al pol f (argHalf a1) clk)
    (hres : ∀ n k, Prog.run (n + 1) (initcResolve s.params c f clk k) s = Prog.run n (k (.error e)) s) :
    (s.At w f a1 [] → (s.chan c).en = false → Runs i 3 s (s.finish e 0)) ∧
    (∀ sr v : Word, s.At w f a1 [sr, v] → sr.getLsbD c.val = true → (s.chan c).en = false →
      Runs i 4 s ((s.setChan c { s.chan c with en := true }).tick.finish e 0)) := by
  refine ⟨fun hat hen => runs_of_run (stands_initc_start hi hat) ?start,
    fun sr v hat hsr hen => runs_of_run (stands_initc_wait hi hat hsr) ?behindWait⟩
  case start =>
    refine Prog.run_readSr c fun sr hsr => ?_
    rw [hsr.trans hen]
    exact hres 1 _
  case behindWait =>
    have hwait : s.srWord &&& channelBit c = 0 := (srWord_and_channelBit_eq_zero_iff s c).2 hen
    rw [Prog.run, if_pos hwait, hres 2]
    exact Prog.run_enable 1 s c _ hen

/-- Settles O47: a bad frequency leaves a finish, and an error of a search at most the alignment read. -/
theorem resolverErrorsWriteNothing : Obligations.ResolverErrorsWriteNothing := by
  intro s w f a1 c al pol ck k hk hckle
  obtain ⟨clk, hck, -, -⟩ := exists_sharedClock hckle
  refine ⟨fun hat hbad => ?badFrequency, fun hpos hle => ?searches⟩
  case badFrequency =>
    obtain ⟨hsetfreq, hsetclkf, hlocal, hshared⟩ := progOf_of_badFrequency (badFrequency_eq_true hbad) hck c al pol a1
    exact ⟨exec_of_progOf_eq_finish hat hsetfreq, exec_of_progOf_eq_finish hat hsetclkf,
      exec_of_progOf_eq_finish hat hlocal, exec_of_progOf_eq_finish hat hshared⟩
  case searches =>
    have hf := badFrequency_eq_false hpos hle
    rw [← alignFactor_extractField s.params.shiftRule] at hk
    refine ⟨fun e he => ?localSearch, fun hrange => ?sharedSearch⟩
    case localSearch =>
      have hfails : LocalSearchFails (Config.freq s.params) f.toNat k e :=
        he.imp (.imp_right localSearch_eq_none_iff.2) (.imp_right localSearch_eq_zero)
      have hres := fun n k => Prog.run_resolveLocal_of_fails n k hf (hk ▸ hfails)
      exact ⟨fun hat => runs_of_run (stands_at_start hat) (hres 1 _),
        initc_fails (progOf_initc_local hf c al pol a1) hres⟩
    case sharedSearch =>
      have hnone := sharedSearch_eq_none_iff.2 hrange
      refine ⟨fun hat => exec_of_progOf_eq_finish hat ?_,
        initc_fails (progOf_initc_shared hck hf c al pol a1) fun n k =>
          Prog.run_initcResolve_shared_of_exhausted n k hf hnone⟩
      rw [progOf, progSetclkf, hck]
      exact Prog.resolveShared_of_exhausted _ hf hnone

end Sys2Proof.Machine
end

section
/-! PROOFS. The frames of SETFREQ, SETCLKF, INITC and RESETC, which write registers of one channel, CLK, and the bit of
that channel to ENA and DIS (43_resolver R204 to R207, 42_channel R162 to R164). -/

namespace Sys2Proof.Machine

/-! ### Writes on behalf of one channel -/

/-- A write of one of the registers `rs`, or of the bit of channel `c` to ENA or DIS. -/
def WriteFor (c : Channel) (rs : List Reg) (r : Reg) (v : Word) : Prop :=
  r ∈ rs ∨ (r = .ena ∨ r = .dis) ∧ v = channelBit c

/-- A write for channel `c` of its own registers or CLK leaves the other channels. -/
theorem WriteFor.storeReg_chan_of_ne {c d : Channel} {r : Reg} {v : Word}
    (h : WriteFor c (.clk :: Prog.channelRegs c) r v) (s : State) (hd : d ≠ c) :
    (s.storeReg v r).chan d = s.chan d := by
  rcases h with hr | ⟨hr, rfl⟩
  · simp only [Prog.channelRegs, List.mem_cons, List.not_mem_nil, or_false] at hr
    rcases hr with rfl | rfl | rfl | rfl | rfl | rfl | rfl | rfl
    · rfl
    all_goals exact s.setChan_chan_of_ne c d _ hd
  · exact (s.storeReg_chan_frame hr _ d).1 (by simp [hd])

/-- A step of a command that writes registers `rs` of channel `c` or CLK and the bit of `c` to ENA and DIS: the other
channels, CLK, and what `F` says of channel `c` whatever its enabled and disable-request bits. -/
theorem exec_frame_of_writeFor {i : Instr} {s t : State} {c : Channel} {rs : List Reg} (F : Chan → Prop)
    (hW : ∀ p a0 a1, (progOf i p a0 a1).Only (WriteFor c rs)) (hrs : rs ⊆ .clk :: Prog.channelRegs c)
    (hF : ∀ en req, F { s.chan c with en := en, disreq := req }) (hset : ∀ r ∈ rs, ∀ v, F ((s.storeReg v r).chan c))
    (h : exec i s = .next t) :
    (∀ d, d ≠ c → t.chan d = s.chan d) ∧ (.clk ∉ rs → t.clk = s.clk) ∧ F (t.chan c) := by
  rcases exec_block hW h with ⟨hclk, hchans⟩ | ⟨r, v, hr, hclk, hchans⟩
  · simp only [State.chan_congr hchans]
    exact ⟨fun _ _ => trivial, fun _ => hclk, hF (s.chan c).en (s.chan c).disreq⟩
  · simp only [State.chan_congr hchans]
    refine ⟨fun d hd => WriteFor.storeReg_chan_of_ne (hr.imp_left (@hrs r)) s hd, fun hnot => ?_, ?_⟩
    · refine hclk.trans (s.storeReg_clk v r ?_)
      rintro rfl
      rcases hr with hr | ⟨hr | hr, -⟩
      · exact hnot hr
      · cases hr
      · cases hr
    · rcases hr with hr | ⟨hr, -⟩
      · exact hset r hr v
      · rw [(s.storeReg_chan_frame hr v c).2]
        exact hF _ _

/-! ### What the four commands write -/

section
variable (p : Params) (c : Channel) (a0 a1 : Word)

theorem Prog.only_finishWith (W : Reg → Word → Prop) (r : Except ErrCode Word) : (Prog.finishWith r).Only W := by
  cases r <;> trivial

theorem only_setfreq : (progOf (.setfreq c) p a0 a1).Only (WriteFor c [.cmr c, .cprd c, .cprdupd c]) := by
  refine Prog.Only.resolveLocal ?_ ?_ ?_ ?_ ?_ (Prog.only_finishWith _) <;> simp [WriteFor]

theorem only_setclkf (ck : BitVec 2) : (progOf (.setclkf c ck) p a0 a1).Only (WriteFor c [.clk, .cmr c]) := by
  dsimp only [progOf, progSetclkf]
  split
  · trivial
  · refine Prog.Only.resolveShared ?_ ?_ ?_ ?_ (Prog.only_finishWith _) <;> simp [WriteFor]

theorem only_resetc : (progOf (.resetc c) p a0 a1).Only (WriteFor c (Prog.channelRegs c)) :=
  .disable (.inr ⟨.inr rfl, rfl⟩) (.zeroAll (fun _ hr _ => .inl hr) trivial)

end

/-- The registers INITC's local path writes (42_channel R164). -/
def initcRegs (c : Channel) : List Reg := [.cmr c, .cprd c, .cprdupd c, .cdty c, .cdtyupd c]

/-- INITC writes `initcRegs`, and CLK if it takes a shared clock. -/
theorem only_initcBody {c : Channel} {rs : List Reg} {clk : Option SharedClock} (hrs : initcRegs c ⊆ rs)
    (hclk : clk ≠ none → .clk ∈ rs) (p : Params) (al : Alignment) (pol : Polarity) (f duty : Word) :
    (initcBody p c al pol f duty clk).Only (WriteFor c rs) := by
  have hreg : ∀ r ∈ initcRegs c, ∀ x, WriteFor c rs r x := fun r hr _ => .inl (hrs hr)
  simp only [initcRegs, List.forall_mem_cons] at hreg
  obtain ⟨hcmr, hcprd, hcprdupd, hcdty, hcdtyupd, -⟩ := hreg
  have hdis : WriteFor c rs .dis (channelBit c) := .inr ⟨.inr rfl, rfl⟩
  have hena : WriteFor c rs .ena (channelBit c) := .inr ⟨.inl rfl, rfl⟩
  have hafter : ∀ en r, (initcAfter p c al pol duty en r).Only (WriteFor c rs) := by
    intro en r
    cases r with
    | error e => exact .enableIf hena trivial
    | ok payload => exact .setField hcmr (.setField hcmr (.setDuty hcdtyupd hcdty (.enableIf hena trivial)))
  rw [initcBody_eq]
  refine fun sr => .disableIf hdis ?_
  cases clk with
  | none => exact .resolveLocal hdis hena hcprdupd hcprd hcmr (hafter _)
  | some clk => exact .initcResolve_shared hdis hena (fun _ => .inl (hclk nofun)) hcmr (hafter _)

theorem only_initc {c : Channel} {rs : List Reg} {useClk : Bool} (hrs : initcRegs c ⊆ rs)
    (hclk : useClk = true → .clk ∈ rs) (al : Alignment) (pol : Polarity) (ck : BitVec 2) (p : Params) (a0 a1 : Word) :
    (progOf (.initc c al pol useClk ck) p a0 a1).Only (WriteFor c rs) := by
  dsimp only [progOf, progInitc]
  split
  · trivial
  · split
    · trivial
    · refine only_initcBody hrs (fun hne => hclk ?_) p al pol a0 (argHalf a1)
      cases useClk with
      | true => rfl
      | false => exact absurd rfl hne

/-! ### The frames -/

section
variable {s t : State} {c : Channel}

theorem exec_setfreq_frame (h : exec (.setfreq c) s = .next t) :
    (∀ d, d ≠ c → t.chan d = s.chan d) ∧ t.clk = s.clk ∧ t.chan c = { t.chan c with
      cdty := (s.chan c).cdty, cdtyupd := (s.chan c).cdtyupd, dt := (s.chan c).dt, dtupd := (s.chan c).dtupd,
      pendDty := (s.chan c).pendDty, pendDt := (s.chan c).pendDt } := by
  obtain ⟨hother, hclk, hchan⟩ := exec_frame_of_writeFor
    (fun ch => ch = { ch with
      cdty := (s.chan c).cdty, cdtyupd := (s.chan c).cdtyupd, dt := (s.chan c).dt, dtupd := (s.chan c).dtupd,
      pendDty := (s.chan c).pendDty, pendDt := (s.chan c).pendDt })
    (fun p => only_setfreq p c) (by simp [Prog.channelRegs]) (fun _ _ => rfl)
    (by simp [State.storeReg, Chan.writePrdShadow]) h
  exact ⟨hother, hclk (by simp), hchan⟩

theorem exec_setclkf_frame {ck : BitVec 2} (h : exec (.setclkf c ck) s = .next t) :
    (∀ d, d ≠ c → t.chan d = s.chan d) ∧ t.chan c = { s.chan c with
      cmr := (t.chan c).cmr, en := (t.chan c).en, disreq := (t.chan c).disreq } := by
  obtain ⟨hother, -, hchan⟩ := exec_frame_of_writeFor
    (fun ch => ch = { s.chan c with cmr := ch.cmr, en := ch.en, disreq := ch.disreq })
    (fun p a0 a1 => only_setclkf p c a0 a1 ck) (by simp [Prog.channelRegs]) (fun _ _ => rfl)
    (by simp [State.storeReg]) h
  exact ⟨hother, hchan⟩

theorem exec_resetc_frame (h : exec (.resetc c) s = .next t) : (∀ d, d ≠ c → t.chan d = s.chan d) ∧ t.clk = s.clk := by
  obtain ⟨hother, hclk, -⟩ := exec_frame_of_writeFor (fun _ => True) (fun p => only_resetc p c)
    (List.subset_cons_self _ _) (fun _ _ => trivial) (fun _ _ _ => trivial) h
  exact ⟨hother, hclk (by simp [Prog.channelRegs])⟩

theorem exec_initc_frame {al : Alignment} {pol : Polarity} {useClk : Bool} {ck : BitVec 2}
    (h : exec (.initc c al pol useClk ck) s = .next t) :
    (∀ d, d ≠ c → t.chan d = s.chan d) ∧ t.chan c = { t.chan c with
      dt := (s.chan c).dt, dtupd := (s.chan c).dtupd, pendDt := (s.chan c).pendDt } := by
  obtain ⟨hother, -, hchan⟩ := exec_frame_of_writeFor
    (fun ch => ch = { ch with dt := (s.chan c).dt, dtupd := (s.chan c).dtupd, pendDt := (s.chan c).pendDt })
    (only_initc (rs := .clk :: initcRegs c) (List.subset_cons_self _ _) (fun _ => List.mem_cons_self) al pol ck)
    (by simp [initcRegs, Prog.channelRegs]) (fun _ _ => rfl)
    (by simp [initcRegs, State.storeReg, Chan.writePrdShadow, Chan.writeDtyShadow]) h
  exact ⟨hother, hchan⟩

/-- INITC's local path leaves CLK. -/
theorem exec_initc_local_clk {al : Alignment} {pol : Polarity} {ck : BitVec 2}
    (h : exec (.initc c al pol false ck) s = .next t) : t.clk = s.clk := by
  obtain ⟨-, hclk, -⟩ := exec_frame_of_writeFor (fun _ => True)
    (only_initc (rs := initcRegs c) (useClk := false) (List.Subset.refl _) nofun al pol ck)
    (by simp [initcRegs, Prog.channelRegs])
    (fun _ _ => trivial) (fun _ _ _ => trivial) h
  exact hclk (by simp [initcRegs])

end

/-- Settles O54: the frames of the four commands, one by one. -/
theorem oneChannelCommandsFrame : Obligations.OneChannelCommandsFrame := by
  intro i c s t h
  refine ⟨?others, ?clk, ?setfreq, ?setclkf, ?initc⟩
  case others =>
    rintro (rfl | rfl | ⟨ck, rfl⟩ | ⟨al, pol, u, ck, rfl⟩)
    · exact (exec_setfreq_frame h).1
    · exact (exec_resetc_frame h).1
    · exact (exec_setclkf_frame h).1
    · exact (exec_initc_frame h).1
  case clk =>
    rintro (rfl | rfl | ⟨al, pol, ck, rfl⟩)
    · exact (exec_setfreq_frame h).2.1
    · exact (exec_resetc_frame h).2
    · exact exec_initc_local_clk h
  case setfreq =>
    rintro rfl
    exact (exec_setfreq_frame h).2.2
  case setclkf =>
    rintro ⟨ck, rfl⟩
    exact (exec_setclkf_frame h).2
  case initc =>
    rintro ⟨al, pol, u, ck, rfl⟩
    exact (exec_initc_frame h).2

end Sys2Proof.Machine
end

section
/-! PROOFS. INITP and RESETP to their finish (44_lifecycle R240, R241), and where RESETP stands in between. -/

namespace Sys2Proof.Machine

/-! ### INITP (44_lifecycle R240) -/

/-- divB is 0 exactly when the bits that hold it are (30_encoding R89). -/
theorem argDivB_eq_zero_iff (a : Word) : argDivB a = 0 ↔ a &&& 0x00FF0000 = 0 := by
  have hdown : a >>> 16 &&& (0xFF : Word) = (a &&& (0x00FF0000 : Word)) >>> 16 :=
    (BitVec.ushiftRight_and_distrib a 0x00FF0000 16).symm
  have hup : a &&& (0x00FF0000 : Word) = (a >>> 16 &&& (0xFF : Word)) <<< 16 := by
    rw [BitVec.shiftLeft_and_distrib, BitVec.shiftLeft_ushiftRight, BitVec.and_assoc]
    rfl
  rw [argDivB_eq]
  refine ⟨fun h => ?_, fun h => ?_⟩
  · rw [hup, h]
    rfl
  · rw [hdown, h]
    rfl

/-- A clock whose divisor is 0 is passed over, and another is set. -/
theorem Prog.run_setClockIf (n : Nat) (p : Params) (ck : SharedClock) (pre div : Word) (k : Prog) (s : State) :
    Prog.run ((if div = 0 then 0 else 4) + n) (setClockIf p ck pre div k) s =
      Prog.run n k (s.setClk (if div = 0 then s.clk else ck.setWord p.shiftRule s.clk pre div)) := by
  unfold setClockIf
  split
  · rw [Nat.zero_add]
    rfl
  · rw [Nat.add_comm]
    exact Prog.run_setClock n p ck pre div k s

/-- Settles O33: INITP passes over or sets clock A, then clock B, and finishes. -/
theorem initpCompletes : Obligations.InitpCompletes := by
  intro s w a0 a1 clkA clkAB hat hA hAB
  rw [← SharedClock.setWord_a, ← argDivA_eq, ← argPreA_eq] at hA
  rw [← SharedClock.setWord_b, ← argDivB_eq, ← argPreB_eq] at hAB
  simp only [← argDivB_eq_zero_iff] at hAB ⊢
  refine runs_of_run (stands_at_start hat) ?_
  rw [← argDivA_eq, Nat.add_assoc, progOf, progInitp, Prog.run_setClockIf, ← hA, Prog.run_setClockIf, State.setClk_clk,
    ← hAB]
  rfl

/-! ### Field writes up to the next access of the command (40_bitfield R111) -/

/-- A read of a storage register is a reply alone (20_memory R64). -/
theorem State.readStep_of_stores {s : State} {r : Reg} (h : r.stores = true) :
    s.readStep r = s.reply (s.regValue r) := by
  have hena : r ≠ .ena := by rintro rfl; cases h
  have hdis : r ≠ .dis := by rintro rfl; cases h
  rw [State.readStep, State.afterRead_eq s r ⟨hena, hdis⟩]

/-- A reply of a running command, as its new phase. -/
theorem State.reply_of_running {s : State} {l : Latch} (h : s.phase = .running l) (v : Word) :
    s.reply v = s.setPhase (.running { l with replies := l.replies ++ [v] }) := by
  rw [State.reply_eq_setPhase, State.reply_phase_of_running h]

section
variable {i : Instr} {s : State} {l : Latch} {p : Params} {k : Prog}

/-- A field write of a storage register that does not fault is two accesses, with the word read and the word written as
replies, and the command stands behind it. -/
theorem runs_setField {r : Reg} {m v x : Word} (hl : s.phase = .running l) (h : Stands i s (.setField p r m v k))
    (hr : r.stores = true) (hok : s.directFault r = none) (hx : insertField p.shiftRule (s.regValue r) m v = x) :
    let t := (s.storeReg x r).setPhase (.running { l with replies := l.replies ++ [s.regValue r, x] })
    Runs i 2 s t ∧ Stands i t k := by
  have hread : s.readStep r = s.setPhase (.running { l with replies := l.replies ++ [s.regValue r] }) :=
    (State.readStep_of_stores hr).trans (State.reply_of_running hl _)
  have hwrite : ((s.readStep r).storeReg x r).reply x =
      (s.storeReg x r).setPhase (.running { l with replies := l.replies ++ [s.regValue r, x] }) := by
    rw [hread, State.setPhase_storeReg, State.reply_of_running rfl, List.append_cons l.replies _ [x]]
    rfl
  have hst := h.read
  rw [hx] at hst
  have hok' : (s.readStep r).directFault r = none := by rw [hread, State.setPhase_directFault, hok]
  refine ⟨⟨_, exec_of_stands h, _, ?_, hwrite⟩, hwrite ▸ hst.write⟩
  exact (exec_of_stands hst).trans (congrArg Host.Outcome.next (State.writeStep_of_ok hok'))

/-- Runs of one command, one behind the other. -/
theorem Runs.trans {m n : Nat} {t u : State} (h : Runs i m s t) (h' : Runs i n t u) : Runs i (m + n) s u := by
  induction m generalizing s with
  | zero =>
    obtain rfl : s = t := h
    rwa [Nat.zero_add]
  | succ m ih =>
    obtain ⟨s', hs, h⟩ := h
    rw [Nat.succ_add]
    exact ⟨s', hs, ih h⟩

/-! ### Zeroing registers (42_channel R162) -/

/-- The state with the registers of a list at 0. -/
def State.zeroRegs (s : State) (regs : List Reg) : State := regs.foldl (fun t r => t.storeReg 0 r) s

theorem State.zeroRegs_setPhase (s : State) (q : Phase) (regs : List Reg) :
    (s.setPhase q).zeroRegs regs = (s.zeroRegs regs).setPhase q := by
  induction regs generalizing s with
  | nil => rfl
  | cons r regs ih =>
    simp only [State.zeroRegs, List.foldl_cons, State.setPhase_storeReg] at ih ⊢
    exact ih _

/-- Zeroing the registers of a channel with no hidden bit set resets it. -/
theorem State.zeroRegs_channelRegs {c : Channel} (h : (s.chan c).Quiet) :
    s.zeroRegs (Prog.channelRegs c) = s.setChan c Chan.reset := by
  obtain ⟨hen, hreq, hprd, hdty, hdt⟩ := h
  simp [State.zeroRegs, Prog.channelRegs, State.storeReg, Chan.writePrdShadow, Chan.writeDtyShadow,
    Chan.writeDtShadow, hen, hreq, hprd, hdty, hdt]
  rfl

/-- Zeroing a list of storage registers, the direct ones of disabled channels, is two accesses of each. -/
theorem runs_zeroAll {regs : List Reg} (hl : s.phase = .running l) (h : Stands i s (.zeroAll p regs k))
    (hr : ∀ r ∈ regs, r.stores = true) (hd : ∀ r ∈ regs, ∀ c d, r.direct = some (c, d) → c ∈ s.disabled) :
    ∃ ws : List Word, ws.length = 2 * regs.length ∧
      Runs i (2 * regs.length) s ((s.zeroRegs regs).setPhase (.running { l with replies := l.replies ++ ws })) := by
  induction regs generalizing s l with
  | nil => exact ⟨[], rfl, by rw [List.append_nil, ← hl]; rfl⟩
  | cons r regs ih =>
    rw [List.forall_mem_cons] at hr hd
    obtain ⟨hrun, hst⟩ := runs_setField hl h hr.1 (State.directFault_eq_none hd.1) (insertField_full_zero _ _)
    have hdis : s.disabled ⊆ (s.storeReg 0 r).disabled := by
      simpa [disabledAfterWrite_of_stores hr.1] using s.disabledAfterWrite_subset r 0
    obtain ⟨ws, hlen, hrest⟩ := ih rfl hst hr.2 fun q hq c d hcd => hdis (hd.2 q hq c d hcd)
    rw [State.zeroRegs_setPhase] at hrest
    have hlength : 2 * (r :: regs).length = 2 + 2 * regs.length := by rw [List.length_cons]; omega
    rw [hlength]
    refine ⟨[s.regValue r, 0] ++ ws, by rw [List.length_append, hlen]; rfl, ?_⟩
    rw [← List.append_assoc]
    exact hrun.trans hrest

end

/-! ### RESETP (44_lifecycle R241) -/

/-- What RESETP does from channel number `n` on. -/
def resetpFrom (p : Params) (n : Nat) : Prog :=
  (allChannels.drop n).foldr (fun c rest => .resetChannel p c rest) (.finish .ok 0)

theorem progResetp_eq (p : Params) (a0 a1 : Word) :
    progResetp p a0 a1 = .setField p .clk fullMask 0 (resetpFrom p 0) := rfl

theorem resetpFrom_eq_resetChannel (p : Params) (c : Channel) :
    resetpFrom p c.val = .resetChannel p c (resetpFrom p (c.val + 1)) := by
  have hdrop : allChannels.drop c.val = c :: allChannels.drop (c.val + 1) := by
    revert c
    decide
  rw [resetpFrom, hdrop]
  rfl

/-- Behind the zeroing of CLK, 16 replies are one channel. -/
theorem progResetp_resume {n : Nat} {vs : List Word} (p : Params) (a0 a1 : Word) (hn : n ≤ 8)
    (hvs : vs.length = 2 + 16 * n) : (progResetp p a0 a1).resume vs = resetpFrom p n := by
  induction n generalizing vs with
  | zero =>
    match vs, hvs with
    | [_, _], _ => rfl
  | succ n ih =>
    have hchan := resetpFrom_eq_resetChannel p ⟨n, hn⟩
    have hfront : (vs.take (2 + 16 * n)).length = 2 + 16 * n := List.length_take_of_le (by omega)
    have hback : (vs.drop (2 + 16 * n)).length = 16 := by rw [List.length_drop]; omega
    rw [← List.take_append_drop (2 + 16 * n) vs, Prog.resume_append_list, ih (by omega) hfront, hchan,
      Prog.resume_resetChannel _ _ _ _ hback]

section
variable {s : State} {c : Channel} {w a0 a1 : Word} {vs : List Word}

/-- Behind the channels before `c` RESETP stands at reset_channel of `c`, whose first access is the DIS write. -/
theorem stands_resetp_disable (hat : s.At w a0 a1 vs) (hvs : vs.length = 2 + 16 * c.val) :
    Stands .resetp s (.resetChannel s.params c (resetpFrom s.params (c.val + 1))) := by
  rw [← resetpFrom_eq_resetChannel, ← progResetp_resume s.params a0 a1 (by omega) hvs]
  exact stands_of_at hat

/-- Behind the DIS write RESETP stands at the channel's wait. -/
theorem stands_resetp_wait (hat : s.At w a0 a1 vs) (hvs : vs.length = 3 + 16 * c.val) :
    Stands .resetp s (.waitClear (channelBit c)
      (.zeroAll s.params (Prog.channelRegs c) (resetpFrom s.params (c.val + 1)))) := by
  rcases vs.eq_nil_or_concat' with rfl | ⟨us, v, rfl⟩
  · rw [List.length_nil] at hvs
    omega
  · have hus : us.length = 2 + 16 * c.val := by
      rw [List.length_append, List.length_singleton] at hvs
      omega
    have hst := stands_of_at (i := .resetp) hat
    rw [Prog.resume_append, progOf, progResetp_resume _ _ _ (by omega) hus, resetpFrom_eq_resetChannel] at hst
    exact hst

/-- With no hidden bit of the channel set RESETP passes the wait and resets the channel. -/
theorem runs_resetp_channel (hat : s.At w a0 a1 vs) (hvs : vs.length = 3 + 16 * c.val) (hq : (s.chan c).Quiet) :
    ∃ vs' : List Word, vs'.length = 2 + 16 * (c.val + 1) ∧ Runs .resetp 15 s
      { s with
        chans := s.chans.set c Chan.reset
        phase := .running { cmd := w, arg0 := a0, arg1 := a1, replies := vs' } } := by
  have hst := stands_resetp_wait hat hvs
  have hwait : exec .resetp s = .next (s.reply 0) := by
    rw [exec_of_stands hst, Prog.act, State.waitStep, if_pos ((srWord_and_channelBit_eq_zero_iff s c).2 hq.1)]
  obtain ⟨ws, hlen, hrun⟩ := runs_zeroAll (State.reply_phase_of_running hat 0) hst.wait
    (by simp [Prog.channelRegs, Reg.stores])
    (by simpa [Prog.channelRegs, Reg.direct, State.mem_disabled] using hq.1)
  rw [State.zeroRegs_channelRegs (s := s.reply 0) hq] at hrun
  refine ⟨_, ?_, _, hwait, hrun⟩
  simp only [List.length_append, hlen, hvs, Prog.channelRegs, List.length_cons, List.length_nil]
  omega

end

/-- With no hidden bit set RESETP zeroes CLK and every channel, and waits for none. -/
theorem runs_resetp {s : State} {w a0 a1 : Word} (hat : s.At w a0 a1 []) (hq : ∀ c, (s.chan c).Quiet) :
    Runs .resetp 131 s
      { s with clk := State.reset.clk, chans := State.reset.chans, err := .ok, result := 0, phase := .idle } := by
  have hchans : (allChannels.foldl (fun t c => t.setChan c Chan.reset) (s.setClk 0)).chans = State.reset.chans := by
    refine State.chans_ext fun c => ?_
    rw [State.chan_foldl_reset, if_pos (by revert c; decide), State.reset_chan]
  refine runs_of_run (stands_at_start hat) ?_
  have hclk : (s.afterRead .clk).storeReg (insertField s.params.shiftRule (s.regValue .clk) fullMask 0) .clk =
      s.setClk 0 := congrArg s.setClk (insertField_full_zero _ _)
  have hrest := Prog.run_resetChannels 1 s.params allChannels (.finish .ok 0) (s.setClk 0) hq
  rw [State.foldl_reset_eq, hchans] at hrest
  rw [progOf, progResetp_eq, Prog.run_setField 129 _ _ _ rfl, hclk]
  exact hrest

/-- Settles O34: the wait of each channel stands behind a fixed number of replies, and resets only that channel. -/
theorem resetpZeroesTheBlock : Obligations.ResetpZeroesTheBlock := by
  intro s w a0 a1
  refine ⟨runs_resetp, fun hat => ?clk, fun c vs hat => ⟨fun hvs => ⟨?request, ?pass⟩, fun hvs => ⟨?hold, ?zero⟩⟩,
    fun vs hvs hat => ?finish⟩
  case clk => exact (runs_setField (r := .clk) hat (stands_at_start hat) rfl rfl (insertField_full_zero _ _)).1
  case request => exact exec_of_stands_disable hat (stands_resetp_disable hat hvs)
  case pass =>
    intro hen
    have hdis : s.storeReg (channelBit c) .dis = s := State.writeDis_of_disabled fun d hd => by
      rw [chBit_channelBit, decide_eq_true_eq] at hd
      exact hd ▸ hen
    rw [exec_of_stands_indirect_write (stands_resetp_disable hat hvs) rfl, hdis, State.reply_of_running hat]
    rfl
  case hold => exact exec_of_stands_wait (stands_resetp_wait hat hvs)
  case zero => exact runs_resetp_channel hat hvs
  case finish =>
    have hst := stands_of_at (i := .resetp) hat
    rw [progOf, progResetp_resume _ _ _ (Nat.le_refl 8) hvs] at hst
    exact exec_of_stands hst

end Sys2Proof.Machine
end

section
/-! PROOFS. The host's accesses to the command interface (60_exceptions R305, R313) and the fault mark (R303). -/

namespace Sys2Proof.Machine

/-! ### The fault mark (60_exceptions R303) -/

theorem stepMove_of_fault {s : State} {f : Fault} (h : s.fault = some f) (m : Move) : stepMove m s = .fault f := by
  simp only [stepMove, h]

theorem step_of_fault {s : State} {f : Fault} (h : s.fault = some f) : step s = .fault f := by
  obtain ⟨m, ms, hm⟩ := step_eq_stepMove s
  rw [hm]
  exact stepMove_of_fault (s := { s with script := ms }) h m

/-- A marked state is never an end of a run (60_exceptions R303, 70_reset_and_hazards R425). -/
theorem State.not_final_of_fault {s : State} {f : Fault} (h : s.fault = some f) : ¬ s.Final := by
  rintro ⟨-, hnone, -⟩
  rw [h] at hnone
  cases hnone

/-- FaultInfo is what R304 and R305 raise, and nothing more. -/
theorem Fault.directWrite_or_hostBreach (f : Fault) :
    (∃ c r, f = .directWriteWhileEnabled c r) ∨ f = .hostProtocol .badAccess ∨ f = .hostProtocol .writeWhileBusy := by
  cases f with
  | directWriteWhileEnabled c r => exact .inl ⟨c, r, rfl⟩
  | hostProtocol kind =>
    cases kind with
    | badAccess => exact .inr (.inl rfl)
    | writeWhileBusy => exact .inr (.inr rfl)

/-- Settles O7: raising keeps a mark, and with one every step answers it. -/
theorem faultMarkStopsEveryAgent : Obligations.FaultMarkStopsEveryAgent :=
  ⟨rfl, fun _ f h => State.raise_fault_of_none h f,
    fun _ _ h => ⟨State.raise_fault_of_some h, stepMove_of_fault h, step_of_fault h, State.not_final_of_fault h⟩,
    Fault.directWrite_or_hostBreach⟩

/-! ### One host access (60_exceptions R305, R313) -/

theorem stepMove_host {s : State} (h : s.fault = none) (a : HostAccess) :
    stepMove (.host a) s = .next (s.hostAccess a) := by
  rw [stepMove, h]

/-- The base is taken off again: an access at `CTRL_BASE` plus an offset reaches the register at the offset. -/
theorem State.ctrlTarget_base_add (s : State) (off : Word) (width : Nat) :
    s.ctrlTarget (s.params.ctrlBase + off) width = if width = 4 then ctrlAt off.toNat else none := by
  rw [State.ctrlTarget, BitVec.add_comm, BitVec.add_sub_cancel]

theorem ctrlAt_eq_none {off : Nat} (h : off ∉ [0x00, 0x04, 0x08, 0x0C, 0x10]) : ctrlAt off = none := by
  unfold ctrlAt
  split
  case h_6 => rfl
  all_goals exact absurd (by decide) h

section
variable {s : State} {addr : Word} {width : Nat}

theorem State.hostAccess_of_no_target (h : s.ctrlTarget addr width = none) :
    s.hostAccess (.read addr width) = s.raise (.hostProtocol .badAccess) ∧
      ∀ v, s.hostAccess (.write addr width v) = s.raise (.hostProtocol .badAccess) := by
  simp only [State.hostAccess, h, implies_true, and_self]

theorem State.hostAccess_read {r : CtrlReg} (h : s.ctrlTarget addr width = some r) :
    s.hostAccess (.read addr width) = { s with readback := some (s.ctrlValue r) } := by
  simp only [State.hostAccess, h]

theorem State.hostAccess_write {r : CtrlReg} (h : s.ctrlTarget addr width = some r) (v : Word) :
    s.hostAccess (.write addr width v) = s.ctrlWrite v r := by
  simp only [State.hostAccess, h]

theorem State.unlessBusy_of_idle (h : s.phase = .idle) (t : State) : s.unlessBusy t = t :=
  if_neg (by simp [(State.busy_eq_false_iff s).2 h])

theorem State.unlessBusy_of_busy (h : s.busy = true) (t : State) :
    s.unlessBusy t = s.raise (.hostProtocol .writeWhileBusy) :=
  if_pos h

end

section
variable {s : State} {off : Word} {r : CtrlReg}

/-- A read of a register of the command interface gives its word (60_exceptions R313). -/
theorem stepMove_host_read (hf : s.fault = none) (hr : ctrlAt off.toNat = some r) :
    stepMove (.host (.read (s.params.ctrlBase + off) 4)) s = .next { s with readback := some (s.ctrlValue r) } := by
  rw [stepMove_host hf, State.hostAccess_read ((s.ctrlTarget_base_add off 4).trans hr)]

theorem stepMove_host_write (hf : s.fault = none) (hr : ctrlAt off.toNat = some r) (v : Word) :
    stepMove (.host (.write (s.params.ctrlBase + off) 4 v)) s = .next (s.ctrlWrite v r) := by
  rw [stepMove_host hf, State.hostAccess_write ((s.ctrlTarget_base_add off 4).trans hr)]

end

/-- Settles O21: the five offsets name the five registers, and an idle sequencer lets every write through. -/
theorem hostAccessesFollowInteractionTable : Obligations.HostAccessesFollowInteractionTable := by
  intro s hf
  refine ⟨fun hidle v => ?_,
    fun v => ⟨stepMove_host_write (r := .result) hf rfl v, stepMove_host_write (r := .status) hf rfl v⟩,
    stepMove_host_read (r := .cmd) hf rfl, stepMove_host_read (r := .arg0) hf rfl, stepMove_host_read (r := .arg1) hf rfl,
    stepMove_host_read (r := .result) hf rfl, stepMove_host_read (r := .status) hf rfl⟩
  have hthrough (t : State) : (.next (s.unlessBusy t) : Host.Outcome State Fault Refusal) = .next t := by
    rw [State.unlessBusy_of_idle hidle]
  exact ⟨(stepMove_host_write (r := .cmd) hf rfl v).trans (hthrough _),
    (stepMove_host_write (r := .arg0) hf rfl v).trans (hthrough _),
    (stepMove_host_write (r := .arg1) hf rfl v).trans (hthrough _)⟩

/-- A write of CMD, ARG0 or ARG1 while busy is refused (60_exceptions R305). -/
theorem State.ctrlWrite_of_busy {s : State} (h : s.busy = true) (v : Word) {r : CtrlReg}
    (hr : r = .cmd ∨ r = .arg0 ∨ r = .arg1) : s.ctrlWrite v r = s.raise (.hostProtocol .writeWhileBusy) := by
  rcases hr with rfl | rfl | rfl <;> exact State.unlessBusy_of_busy h _

/-- Settles O22: a bad width or offset reaches no register, and the three offsets those that are not written while busy. -/
theorem hostBreachesFault : Obligations.HostBreachesFault := by
  rintro s addr v width off hf rfl hoff
  have hoff' : (BitVec.ofNat 32 off).toNat = off := by rw [BitVec.toNat_ofNat, Nat.mod_eq_of_lt hoff]
  refine ⟨fun hbad => ?_, fun hw hmem hphase => ?_⟩
  · have hnone : s.ctrlTarget (s.params.ctrlBase + BitVec.ofNat 32 off) width = none := by
      rw [State.ctrlTarget_base_add, hoff']
      rcases hbad with hwidth | hno
      · exact if_neg hwidth
      · rw [ctrlAt_eq_none hno, ite_self]
    obtain ⟨hread, hwrite⟩ := State.hostAccess_of_no_target hnone
    rw [stepMove_host hf, stepMove_host hf, hread, hwrite, State.raise_of_none hf]
    exact ⟨rfl, rfl⟩
  · have hbusy : s.busy = true := Bool.eq_true_of_not_eq_false (mt (State.busy_eq_false_iff s).1 hphase)
    obtain ⟨r, hr, hreg⟩ : ∃ r, ctrlAt off = some r ∧ (r = .cmd ∨ r = .arg0 ∨ r = .arg1) := by
      simp only [List.mem_cons, List.not_mem_nil, or_false] at hmem
      rcases hmem with rfl | rfl | rfl <;> exact ⟨_, rfl, by decide⟩
    rw [hw, stepMove_host_write hf (hoff'.symm ▸ hr), State.ctrlWrite_of_busy hbusy v hreg, State.raise_of_none hf]

end Sys2Proof.Machine
end

section
/-! PROOFS. A disable wait on a channel whose clock is off (60_exceptions R311, 70_reset_and_hazards R412). -/

namespace Sys2Proof.Machine

/-! ### Where the latched command stands (10_state R43, 30_encoding R91) -/

/-- The latched word decodes to `i`, and `q` is what remains of that command. -/
def State.RunsAt (s : State) (i : Instr) (q : Prog) : Prop :=
  ∃ l, s.phase = .running l ∧ decode l.cmd = .ok i ∧ (progOf i s.params l.arg0 l.arg1).resume l.replies = q

namespace State.RunsAt
variable {s t : State} {i : Instr} {q : Prog}

theorem of_frame (h : s.RunsAt i q) (hphase : t.phase = s.phase) (hparams : t.params = s.params) : t.RunsAt i q := by
  unfold RunsAt
  rw [hphase, hparams]
  exact h

theorem busy (h : s.RunsAt i q) : s.busy = true := by
  obtain ⟨l, hl, -⟩ := h
  rw [State.busy, hl]

/-- The sequencer's step is the first access of what remains. -/
theorem sequencerStep (h : s.RunsAt i q) : sequencerStep s = .next (q.act s) := by
  obtain ⟨l, hl, hd, hq⟩ := h
  rw [sequencerStep_of_decode_ok hl hd, exec_of_stands ⟨l, hl, hq⟩]

/-- A reply leads to what remains behind it. -/
theorem reply (h : s.RunsAt i q) (v : Word) : (s.reply v).RunsAt i (q.after v) := by
  obtain ⟨l, hl, hd, hq⟩ := h
  exact ⟨_, State.reply_phase_of_running hl v, hd, by rw [State.reply_params, Prog.resume_append, hq]⟩

end State.RunsAt

/-- At a wait that names an enabled channel the sequencer's step changes nothing (42_channel R152). -/
theorem State.waitStep_of_enabled {s : State} {m : Word} {c : Channel} (hc : chBit m c = true)
    (hen : (s.chan c).en = true) : s.waitStep m = s :=
  if_neg fun h0 => by simpa [hen] using (srWord_and_eq_zero_iff s m).1 h0 c hc

/-! ### What a move can do while the sequencer is busy -/

/-- While the sequencer is busy the host may read, or raise a fault, and nothing more (60_exceptions R305, R313). -/
theorem State.hostAccess_of_busy {s : State} (h : s.busy = true) (a : HostAccess) :
    (∃ x, s.hostAccess a = { s with readback := x }) ∨ ∃ f, s.hostAccess a = s.raise f := by
  cases a with
  | read addr width =>
    cases ht : s.ctrlTarget addr width with
    | none => exact .inr ⟨_, (State.hostAccess_of_no_target ht).1⟩
    | some r => exact .inl ⟨_, State.hostAccess_read ht⟩
  | write addr width v =>
    cases ht : s.ctrlTarget addr width with
    | none => exact .inr ⟨_, (State.hostAccess_of_no_target ht).2 v⟩
    | some r =>
      rw [State.hostAccess_write ht]
      cases r with
      | cmd => exact .inr ⟨_, State.ctrlWrite_of_busy h v (by decide)⟩
      | arg0 => exact .inr ⟨_, State.ctrlWrite_of_busy h v (by decide)⟩
      | arg1 => exact .inr ⟨_, State.ctrlWrite_of_busy h v (by decide)⟩
      | result | status => exact .inl ⟨s.readback, rfl⟩

theorem State.boundary_of_not_admitted {s : State} {c : Channel} (h : s.boundaryAdmitted c = false) : s.boundary c = s :=
  if_neg (by simp [h])

/-- A boundary leaves the other channels (10_state R45). -/
theorem State.boundary_chan_of_ne (s : State) {c d : Channel} (h : d ≠ c) : (s.boundary c).chan d = s.chan d := by
  unfold State.boundary
  split
  · exact s.setChan_chan_of_ne c d _ h
  · rfl

/-- The channel clock is CLK's and CMRc's (10_state R44). -/
theorem State.channelClock_congr {s t : State} {c : Channel} (hclk : t.clk = s.clk) (hchan : t.chan c = s.chan c) :
    t.channelClock c = s.channelClock c := by
  simp only [State.channelClock, hclk, hchan]

/-! ### The hang -/

/-- A hang, with where the command stands. -/
theorem State.hangs_iff {s : State} {c : Channel} : s.Hangs c ↔
    ∃ m i k, s.RunsAt i (.waitClear m k) ∧ chBit m c = true ∧ (s.chan c).en = true ∧ s.channelClock c = .off :=
  ⟨fun ⟨m, ⟨l, i, k, hl⟩, h⟩ => ⟨m, i, k, ⟨l, hl⟩, h⟩, fun ⟨m, i, k, ⟨l, hl⟩, h⟩ => ⟨m, ⟨l, i, k, hl⟩, h⟩⟩

namespace State.Hangs
variable {s t : State} {c : Channel}

theorem of_frame (h : s.Hangs c) (hphase : t.phase = s.phase) (hparams : t.params = s.params) (hclk : t.clk = s.clk)
    (hchan : t.chan c = s.chan c) : t.Hangs c := by
  obtain ⟨m, i, k, hruns, hc, hen, hoff⟩ := State.hangs_iff.1 h
  exact State.hangs_iff.2 ⟨m, i, k, hruns.of_frame hphase hparams, hc, by rw [hchan, hen],
    (State.channelClock_congr hclk hchan).trans hoff⟩

theorem busy (h : s.Hangs c) : s.busy = true := by
  obtain ⟨m, i, k, hruns, -⟩ := State.hangs_iff.1 h
  exact hruns.busy

/-- The sequencer's evaluation of the wait finds the channel enabled. -/
theorem sequencerStep (h : s.Hangs c) : sequencerStep s = .next s := by
  obtain ⟨m, i, k, hruns, hc, hen, -⟩ := State.hangs_iff.1 h
  rw [hruns.sequencerStep, Prog.act, State.waitStep_of_enabled hc hen]

/-- No boundary of the channel is admitted (10_state R46 (a)). -/
theorem boundaryAdmitted (h : s.Hangs c) : s.boundaryAdmitted c = false := by
  obtain ⟨-, -, -, -, -, -, hoff⟩ := State.hangs_iff.1 h
  simp [State.boundaryAdmitted, hoff]

/-- No boundary ends the hang: the channel's own does not occur, and another leaves the channel. -/
theorem boundary (h : s.Hangs c) (d : Channel) : (s.boundary d).Hangs c := by
  by_cases hd : c = d
  · subst hd
    rwa [State.boundary_of_not_admitted h.boundaryAdmitted]
  · have hframe := s.boundary_frame d
    exact h.of_frame (by rw [hframe]) (by rw [hframe]) (by rw [hframe]) (s.boundary_chan_of_ne hd)

/-- Every move of every agent keeps a hang. -/
theorem of_stepMove {m : Move} (h : s.Hangs c) (hs : stepMove m s = .next t) : t.Hangs c := by
  rcases stepMove_cases hs with ⟨a, -, rfl⟩ | ⟨d, -, rfl⟩ | ⟨-, rfl⟩ | hseq
  · rcases State.hostAccess_of_busy h.busy a with ⟨x, hx⟩ | ⟨f, hf⟩
    · exact hx ▸ h.of_frame rfl rfl rfl rfl
    · exact hf ▸ h.of_frame rfl rfl rfl rfl
  · exact h.boundary d
  · exact h.of_frame rfl rfl rfl rfl
  · rw [h.sequencerStep] at hseq
    cases hseq
    exact h

end State.Hangs

/-- Settles O57: a hang is kept by every move, and a state that hangs is busy. -/
theorem clockOffHangNeverEnds : Obligations.ClockOffHangNeverEnds := by
  intro σ s c h n
  have hn : (runAt σ s n).Hangs c := runAt_induction h (fun _ _ _ hu hs => State.Hangs.of_stepMove hu hs) n
  exact ⟨hn, hn.busy⟩

end Sys2Proof.Machine
end

section
/-! PROOFS. What an access of a command leaves of the command interface (60_exceptions R301, 20_memory R71). -/

namespace Sys2Proof.Machine

/-- `t` has the command interface, the phase, the parameters, the script and the last host read of `s`. -/
structure State.InterfaceKept (s t : State) : Prop where
  cmd : t.cmd = s.cmd
  arg0 : t.arg0 = s.arg0
  arg1 : t.arg1 = s.arg1
  result : t.result = s.result
  err : t.err = s.err
  phase : t.phase = s.phase
  params : t.params = s.params
  script : t.script = s.script
  readback : t.readback = s.readback

theorem State.interfaceKept_self (s : State) : s.InterfaceKept s :=
  ⟨rfl, rfl, rfl, rfl, rfl, rfl, rfl, rfl, rfl⟩

theorem State.interfaceKept_raise (s : State) (f : Fault) : s.InterfaceKept (s.raise f) :=
  ⟨rfl, rfl, rfl, rfl, rfl, rfl, rfl, rfl, rfl⟩

theorem State.interfaceKept_afterRead (s : State) (r : Reg) : s.InterfaceKept (s.afterRead r) := by
  obtain ⟨-, -, hcmd, harg0, harg1, hresult, herr, hphase, -, hparams, hscript, hreadback⟩ := s.afterRead_frame r
  exact ⟨hcmd, harg0, harg1, hresult, herr, hphase, hparams, hscript, hreadback⟩

theorem State.interfaceKept_storeReg (s : State) (v : Word) (r : Reg) : s.InterfaceKept (s.storeReg v r) := by
  obtain ⟨hcmd, harg0, harg1, hresult, herr, hphase, -, hparams, hscript, hreadback⟩ := s.storeReg_frame v r
  exact ⟨hcmd, harg0, harg1, hresult, herr, hphase, hparams, hscript, hreadback⟩

/-- An access finishes the command, or keeps the interface and adds at most a reply. -/
theorem Prog.act_interface (p : Prog) (s : State) :
    (∃ e r, p.act s = s.finish e r) ∨
      ∃ t, s.InterfaceKept t ∧ (p.act s = t ∨ ∃ v, p.act s = t.reply v) := by
  cases p with
  | finish e r => exact .inl ⟨e, r, rfl⟩
  | read r k => exact .inr ⟨_, s.interfaceKept_afterRead r, .inr ⟨_, rfl⟩⟩
  | write r v k =>
    cases hf : s.directFault r with
    | some f => exact .inr ⟨_, s.interfaceKept_raise f, .inl (State.writeStep_of_fault hf)⟩
    | none => exact .inr ⟨_, s.interfaceKept_storeReg v r, .inr ⟨v, State.writeStep_of_ok hf⟩⟩
  | waitClear m k =>
    refine .inr ⟨s, s.interfaceKept_self, ?_⟩
    dsimp only [Prog.act]
    unfold State.waitStep
    split
    · exact .inr ⟨0, rfl⟩
    · exact .inl rfl

/-- Settles O50: a finish leaves the sequencer idle, and any other access keeps the interface but for its reply. -/
theorem commandsKeepTheInterface : Obligations.CommandsKeepTheInterface := by
  intro i s t h
  rcases exec_inv h with ⟨hidle, rfl⟩ | ⟨p, -, rfl⟩
  · exact ⟨rfl, rfl, rfl, rfl, rfl, rfl, .inl hidle, fun _ _ => .inl hidle⟩
  · rcases p.act_interface s with ⟨e, r, hfin⟩ | ⟨u, hu, hact | ⟨v, hact⟩⟩
    · rw [hfin]
      exact ⟨rfl, rfl, rfl, rfl, rfl, rfl, .inl rfl, fun _ _ => .inl rfl⟩
    · rw [hact]
      exact ⟨hu.cmd, hu.arg0, hu.arg1, hu.params, hu.script, hu.readback, .inr ⟨hu.result, hu.err⟩,
        fun l hl => .inr ⟨l.replies, hu.phase.trans hl⟩⟩
    · rw [hact]
      exact ⟨hu.cmd, hu.arg0, hu.arg1, hu.params, hu.script, hu.readback, .inr ⟨hu.result, hu.err⟩,
        fun l hl => .inr ⟨_, State.reply_phase_of_running (hu.phase.trans hl) v⟩⟩

end Sys2Proof.Machine
end

section
/-! PROOFS. DISABLE's wait ends in a fair run (60_exceptions R311): every move keeps what the wait needs
(`State.Disabling`), and what a boundary or a step of the sequencer brings about stays. -/

namespace Sys2Proof.Machine

/-! ### The moves of a run -/

theorem sequencerStep_of_idle {s : State} (h : s.phase = .idle) : sequencerStep s = .next s := by
  rw [sequencerStep, h]

theorem sequencerStep_next (s : State) : ∃ t, sequencerStep s = .next t := by
  cases hp : s.phase with
  | idle => exact ⟨s, sequencerStep_of_idle hp⟩
  | running l =>
    cases hd : decode l.cmd with
    | ok i =>
      rw [sequencerStep_of_decode_ok hp hd]
      exact exec_next i s
    | error e => exact ⟨_, sequencerStep_of_decode_error hp hd⟩

theorem stepMove_boundary {s : State} (h : s.fault = none) (c : Channel) :
    stepMove (.boundary c) s = .next (s.boundary c) := by
  rw [stepMove, h]

/-- Without a fault every move has a next state. -/
theorem stepMove_next {s : State} (h : s.fault = none) (m : Move) : ∃ t, stepMove m s = .next t := by
  cases m with
  | sequencer => exact stepMove_sequencer h ▸ sequencerStep_next s
  | host a => exact ⟨_, stepMove_host h a⟩
  | boundary c => exact ⟨_, stepMove_boundary h c⟩
  | await =>
    by_cases hbusy : s.busy = true
    · exact stepMove_await h hbusy ▸ sequencerStep_next s
    · exact ⟨s.pollStatus, by rw [stepMove, h]; exact if_neg hbusy⟩

/-- While there is no fault a run goes on by the moves of its schedule. -/
theorem stepMove_runAt {σ : Schedule} {s : State} {n : Nat} (h : (runAt σ s n).fault = none) :
    stepMove (σ n) (runAt σ s n) = .next (runAt σ s (n + 1)) := by
  obtain ⟨t, ht⟩ := stepMove_next h (σ n)
  rw [ht, runAt, ht]

/-- A move with a passive host is the sequencer's, a boundary, or changes the last host read alone. -/
theorem stepMove_cases_of_passive {m : Move} {s t : State} (hpassive : ∀ a, m = .host a → a.Passive s.params)
    (h : stepMove m s = .next t) :
    sequencerStep s = .next t ∨ (∃ c, t = s.boundary c) ∨ ∃ x, t = { s with readback := x } := by
  rcases stepMove_cases h with ⟨a, rfl, rfl⟩ | ⟨c, -, rfl⟩ | ⟨-, rfl⟩ | hseq
  · exact .inr (.inr (State.hostAccess_of_passive (hpassive a rfl)))
  · exact .inr (.inl ⟨c, rfl⟩)
  · exact .inr (.inr ⟨_, rfl⟩)
  · exact .inl hseq

/-- What every later point keeps holds from the point on where it comes about. -/
theorem eventually_of_exists {P : Nat → Prop} (hstay : ∀ n, P n → P (n + 1)) (h : ∃ n, P n) :
    ∀ᶠ n in Filter.atTop, P n := by
  obtain ⟨n, hn⟩ := h
  exact Filter.eventually_atTop.2 ⟨n, fun _ hk => Nat.le_induction hn (fun j _ => hstay j) _ hk⟩

/-- Whatever holds from some time on holds at a step of the sequencer. -/
theorem SequencerFair.exists_of_eventually {σ : Schedule} (hσ : SequencerFair σ) {P : Nat → Prop}
    (h : ∀ᶠ n in Filter.atTop, P n) : ∃ n, σ n = .sequencer ∧ P n :=
  ((Filter.frequently_atTop.2 hσ).and_eventually h).exists

/-! ### Fair boundaries (10_state R46) -/

theorem State.boundaryAdmitted_of_fair {s : State} {c : Channel} (h : s.boundaryFair c = true) :
    s.boundaryAdmitted c = true := by
  simp only [State.boundaryFair, Bool.and_eq_true] at h
  obtain ⟨⟨hen, -⟩, hclk⟩ := h
  refine State.boundaryAdmitted_iff.2 ⟨hen, fun hoff => ?_⟩
  simp [hoff] at hclk

theorem State.boundaryFair_congr {s t : State} {c : Channel} (hclk : t.clk = s.clk) (hchan : t.chan c = s.chan c) :
    t.boundaryFair c = s.boundaryFair c := by
  simp only [State.boundaryFair, hchan, State.channelClock_congr hclk hchan]

/-! ### DISABLE behind its DIS write (42_channel R152, R153) -/

/-- A command has finished with OK. -/
def State.FinishedOk (s : State) : Prop := s.phase = .idle ∧ s.err = .ok

/-- DISABLE stands at its finish, or has finished with OK. -/
def State.PastWait (chm : BitVec 8) (s : State) : Prop := s.RunsAt (.disable chm) (.finish .ok 0) ∨ s.FinishedOk

/-- DISABLE of the mask `chm` stands at its wait or is past it, and every named channel still enabled has its request
pending and a fair boundary. -/
structure State.Disabling (p : Params) (chm : BitVec 8) (s : State) : Prop where
  fault : s.fault = none
  params : s.params = p
  requested : ∀ c : Channel, chm.getLsbD c.val = true → (s.chan c).en = true →
    (s.chan c).disreq = true ∧ s.boundaryFair c = true
  position : s.RunsAt (.disable chm) (.waitClear (maskWord chm) (.finish .ok 0)) ∨ s.PastWait chm

section
variable {p : Params} {chm : BitVec 8} {m : Move} {s t : State}

theorem State.PastWait.of_frame (h : s.PastWait chm) (hphase : t.phase = s.phase) (hparams : t.params = s.params)
    (herr : t.err = s.err) : t.PastWait chm :=
  h.imp (·.of_frame hphase hparams) fun ⟨hidle, hok⟩ => ⟨hphase.trans hidle, herr.trans hok⟩

/-- Nothing but a write of CMD takes the sequencer out of idle (60_exceptions R313). -/
theorem State.FinishedOk.of_stepMove (h : s.FinishedOk) (hpassive : ∀ a, m = .host a → a.Passive s.params)
    (hs : stepMove m s = .next t) : t.FinishedOk := by
  rcases stepMove_cases_of_passive hpassive hs with hseq | ⟨c, rfl⟩ | ⟨x, rfl⟩
  · rw [sequencerStep_of_idle h.1] at hseq
    cases hseq
    exact h
  · rw [s.boundary_frame c]
    exact h
  · exact h

/-- Past its wait DISABLE finishes with the sequencer's next step. -/
theorem State.PastWait.of_sequencerStep (h : s.PastWait chm) (hs : sequencerStep s = .next t) : t.FinishedOk := by
  rcases h with hruns | hfin
  · rw [hruns.sequencerStep] at hs
    cases hs
    exact ⟨rfl, rfl⟩
  · rw [sequencerStep_of_idle hfin.1] at hs
    cases hs
    exact hfin

theorem State.PastWait.of_stepMove (h : s.PastWait chm) (hpassive : ∀ a, m = .host a → a.Passive s.params)
    (hs : stepMove m s = .next t) : t.PastWait chm := by
  rcases stepMove_cases_of_passive hpassive hs with hseq | ⟨c, rfl⟩ | ⟨x, rfl⟩
  · exact .inr (h.of_sequencerStep hseq)
  · rw [s.boundary_frame c]
    exact h.of_frame rfl rfl rfl
  · exact h.of_frame rfl rfl rfl

namespace State.Disabling

/-- The sequencer's step stays at the wait, passes it, finishes, or does nothing. -/
theorem sequencerStep_cases (h : s.Disabling p chm) (hs : sequencerStep s = .next t) :
    t = s ∨ (t = s.reply 0 ∨ t = s.finish .ok 0) ∧ t.PastWait chm := by
  rcases h.position with hwait | hruns | hfin
  · rw [hwait.sequencerStep, Prog.act, State.waitStep] at hs
    split at hs <;> cases hs
    · exact .inr ⟨.inl rfl, .inl (hwait.reply 0)⟩
    · exact .inl rfl
  · rw [hruns.sequencerStep] at hs
    cases hs
    exact .inr ⟨.inr rfl, .inr ⟨rfl, rfl⟩⟩
  · rw [sequencerStep_of_idle hfin.1] at hs
    cases hs
    exact .inl rfl

theorem chans_of_sequencerStep (h : s.Disabling p chm) (hs : sequencerStep s = .next t) : t.chans = s.chans := by
  rcases h.sequencerStep_cases hs with rfl | ⟨rfl | rfl, -⟩ <;> rfl

theorem of_sequencerStep (h : s.Disabling p chm) (hs : sequencerStep s = .next t) : t.Disabling p chm := by
  rcases h.sequencerStep_cases hs with rfl | ⟨rfl | rfl, hpast⟩
  · exact h
  · exact ⟨h.fault, h.params, h.requested, .inr hpast⟩
  · exact ⟨h.fault, h.params, h.requested, .inr hpast⟩

/-- With the named channels disabled the sequencer's step leads past the wait (42_channel R152). -/
theorem pastWait_of_disabled (h : s.Disabling p chm) (hs : sequencerStep s = .next t)
    (hdis : ∀ c : Channel, chm.getLsbD c.val = true → (s.chan c).en = false) : t.PastWait chm := by
  rcases h.position with hwait | hpast
  · rw [hwait.sequencerStep, Prog.act, State.waitStep,
      if_pos ((srWord_and_eq_zero_iff s _).2 (disabled_of_maskWord hdis))] at hs
    cases hs
    exact .inl (hwait.reply 0)
  · exact .inr (hpast.of_sequencerStep hs)

/-- The boundary of a named channel disables it (10_state R45). -/
theorem boundary_disables (h : s.Disabling p chm) {c : Channel} (hc : chm.getLsbD c.val = true) :
    ((s.boundary c).chan c).en = false := by
  rw [State.boundary_chan_en]
  cases hen : (s.chan c).en with
  | false => rfl
  | true =>
    obtain ⟨hreq, hfair⟩ := h.requested c hc hen
    simp [hreq, State.boundaryAdmitted_of_fair hfair]

theorem boundary (h : s.Disabling p chm) (d : Channel) : (s.boundary d).Disabling p chm := by
  have hframe := s.boundary_frame d
  refine ⟨by rw [hframe]; exact h.fault, by rw [hframe]; exact h.params, fun c hc hen => ?_,
    by rw [hframe]; exact h.position⟩
  by_cases hd : c = d
  · subst hd
    rw [h.boundary_disables hc] at hen
    cases hen
  · have hchan := s.boundary_chan_of_ne hd
    rw [hchan] at hen ⊢
    rw [State.boundaryFair_congr (by rw [hframe]) hchan]
    exact h.requested c hc hen

theorem of_stepMove (h : s.Disabling p chm) (hpassive : ∀ a, m = .host a → a.Passive p)
    (hs : stepMove m s = .next t) : t.Disabling p chm := by
  rcases stepMove_cases_of_passive (h.params.symm ▸ hpassive) hs with hseq | ⟨c, rfl⟩ | ⟨x, rfl⟩
  · exact h.of_sequencerStep hseq
  · exact h.boundary c
  · exact ⟨h.fault, h.params, h.requested, h.position⟩

/-- No move enables a channel: only a write of ENA would (10_state R37). -/
theorem disabled_subset_of_stepMove (h : s.Disabling p chm) (hs : stepMove m s = .next t) :
    s.disabled ⊆ t.disabled := by
  have hchans : t.chans = s.chans → s.disabled ⊆ t.disabled := fun ht c hc => by
    rwa [State.mem_disabled, State.chan_congr ht]
  rcases stepMove_cases hs with ⟨a, -, rfl⟩ | ⟨c, -, rfl⟩ | ⟨-, rfl⟩ | hseq
  · exact hchans (s.hostAccess_chans a)
  · exact s.disabled_subset_boundary c
  · exact hchans rfl
  · exact hchans (h.chans_of_sequencerStep hseq)

end State.Disabling
end

/-! ### Fair runs of DISABLE -/

section
variable {p : Params} {chm : BitVec 8} {σ : Schedule} {s : State}

theorem State.Disabling.of_runAt (h : s.Disabling p chm) (hσ : HostPassive p σ) (n : Nat) :
    (runAt σ s n).Disabling p chm :=
  runAt_induction h (fun k _ _ hu hs => State.Disabling.of_stepMove hu (fun _ => hσ.passive (n := k)) hs) n

/-- A named channel is disabled from some time on: while it is enabled its boundary is fair (10_state R46 (b)). -/
theorem State.Disabling.eventually_disabled (h : s.Disabling p chm) (hσ : HostPassive p σ) (hfair : WeaklyFair σ s)
    {c : Channel} (hc : chm.getLsbD c.val = true) : ∀ᶠ n in Filter.atTop, ((runAt σ s n).chan c).en = false := by
  have hrun := h.of_runAt hσ
  have hnext := fun n => stepMove_runAt (hrun n).fault
  refine eventually_of_exists (fun n hn => (hrun n).disabled_subset_of_stepMove (hnext n) hn) ?_
  by_contra hnever
  have hen : ∀ n, ((runAt σ s n).chan c).en = true := fun n =>
    Bool.eq_true_of_not_eq_false fun hn => hnever ⟨n, hn⟩
  obtain ⟨k, -, hk⟩ := hfair c 0 fun k _ => ((hrun k).requested c hc (hen k)).2
  have hboundary := hnext k
  rw [hk, stepMove_boundary (hrun k).fault] at hboundary
  refine hnever ⟨k + 1, ?_⟩
  rw [← Host.Outcome.next.inj hboundary]
  exact (hrun k).boundary_disables hc

end

/-- Settles O60: the named channels are disabled from some time on, so the sequencer's next step passes the wait, and the
one after that finishes. -/
theorem fairRunsEndDisable : Obligations.FairRunsEndDisable := by
  intro σ s w a0 a1 v chm hf hat hd hreq hσ hseq hfair
  have hstart : s.Disabling s.params chm := ⟨hf, rfl, hreq, .inl ⟨_, hat, hd, rfl⟩⟩
  have hrun := hstart.of_runAt hσ
  have hnext := fun n => stepMove_runAt (hrun n).fault
  have hpassive : ∀ n a, σ n = .host a → a.Passive (runAt σ s n).params := fun n a ha =>
    (hrun n).params.symm ▸ hσ.passive ha
  have hseqStep : ∀ n, σ n = .sequencer → sequencerStep (runAt σ s n) = .next (runAt σ s (n + 1)) := fun n hn => by
    rw [← stepMove_sequencer (hrun n).fault, ← hn, hnext n]
  have hdis : ∀ᶠ n in Filter.atTop, ∀ c : Channel, chm.getLsbD c.val = true → ((runAt σ s n).chan c).en = false :=
    Filter.eventually_all.2 fun c => Filter.eventually_imp_distrib_left.2 (hstart.eventually_disabled hσ hfair)
  have hpast : ∀ᶠ n in Filter.atTop, (runAt σ s n).PastWait chm := by
    refine eventually_of_exists (fun n hn => hn.of_stepMove (hpassive n) (hnext n)) ?_
    obtain ⟨n, hn, hall⟩ := hseq.exists_of_eventually hdis
    exact ⟨n + 1, (hrun n).pastWait_of_disabled (hseqStep n hn) hall⟩
  have hfin : ∀ᶠ n in Filter.atTop, (runAt σ s n).FinishedOk := by
    refine eventually_of_exists (fun n hn => hn.of_stepMove (hpassive n) (hnext n)) ?_
    obtain ⟨n, hn, hpast⟩ := hseq.exists_of_eventually hpast
    exact ⟨n + 1, hpast.of_sequencerStep (hseqStep n hn)⟩
  obtain ⟨n, hall, hidle, hok⟩ := (hdis.and hfin).exists
  exact ⟨n, hidle, hok, hall⟩

end Sys2Proof.Machine
end

section
/-! PROOFS. SETF of ENA with the full mask under Lowest (70_reset_and_hazards R419): the mask keeps nothing of the drawn
read, and with no disable pending the write of ENA leaves nothing to its draw (10_state R24). -/

namespace Sys2Proof.Machine

/-! ### A full-mask SETF of ENA (70_reset_and_hazards R419) -/

/-- The full mask keeps nothing of the old word (40_bitfield R111). -/
theorem putField_full (old v : Word) : putField old 0xFFFFFFFF v 0 = v := by
  simp [putField]

/-- With no disable pending, ENA's write has nothing to draw for (10_state R24). -/
theorem Chan.enableAct_of_no_request {ch : Chan} (h : ch.disreq = false) (b d : Bool) :
    ch.enableAct b d = { ch with en := ch.en || b } := by
  have hreq : (ch.enableAct b d).disreq = ch.disreq := by
    unfold Chan.enableAct
    split_ifs <;> simp_all
  rw [Chan.enableAct_eq, Chan.enableAct_en, hreq]

/-- Settles O30: SETF completes, the word it writes is its value, and the write of ENA decides every channel. -/
theorem fullMaskSetfOfEnaIgnoresTheDraw : Obligations.FullMaskSetfOfEnaIgnoresTheDraw := by
  intro s w v hat hrule hreq
  have hshift : shiftOf s.params.shiftRule 0xFFFFFFFF = 0 := (shiftOf_full _).trans (by rw [hrule]; rfl)
  have hrun := setfCompletes s w 0xFFFFFFFF v 1 .ena hat (by decide) (by decide) nofun
  rw [hshift, putField_full] at hrun
  refine ⟨_, hrun, rfl, rfl, rfl, fun c => ?_⟩
  exact (s.tick.writeEna_chan v c).trans (Chan.enableAct_of_no_request (hreq c) _ _)

end Sys2Proof.Machine
end
